-- ==== Sys2Proof/Word.lean ====
section
/-! DEFINITION. The widths of the block's values: bytes of the stream and of the frame, 16-bit slot words and
command words, 32-bit checksums (spec/10_state.md R14). -/

namespace Sys2Proof

/-- One byte of the stream or of a frame (R9). -/
abbrev Byte := BitVec 8

/-- A 16-bit word: a BMS slot (R20 to R22) or a host command word (R50). -/
abbrev Half := BitVec 16

/-- A 32-bit word: a CRC, a trailer, a distance field (R59, R45). -/
abbrev Word := BitVec 32

/-- A frame, or the part of it collected so far: byte `i` is frame offset `i` (R10, R17). -/
abbrev Frame := List Byte

end Sys2Proof
end

