-- ==== Sys2Proof/Config.lean ====
section
/-! DEFINITION. The block's parameters, every one fixed for this hardware (spec/00_scope.md R7). The spec leaves
no value free, so there is no opaque constant here. -/

namespace Sys2Proof.Config

/-- `MARKER`: the three marker bytes in stream order. -/
def marker : Frame := [0xDC#8, 0x5A#8, 0x5C#8]

/-- `HDR`: header length, marker and length byte. -/
def headerLength : Nat := 4

/-- Offset of the length byte `L` in the frame (R41). -/
def lengthOffset : Nat := 3

/-- `TRL`: trailer length. -/
def trailerLength : Nat := 4

/-- `FLOOR`: a frame is decoded only if `L > 38`. -/
def floor : Nat := 38

/-- `FRAME_MAX`: the longest frame, `255 + 4` bytes. -/
def frameMax : Nat := 259

/-- `NCELLS`: cell slots per unit. -/
def cells : Nat := 42

/-- `NAGG`: slots `0 .. 35` enter the aggregate. -/
def aggregated : Nat := 36

/-- `NTEMPS`: temperature slots per unit. -/
def temps : Nat := 6

/-- `PNUM_OFF`: offset of the sub-packet index. -/
def pnumOffset : Nat := 46

/-- `MVER_BMS`: the least major version that enables the BMS sub-protocol. -/
def bmsVersion : Nat := 5

/-- The reflected CRC-32/IEEE polynomial of R58, general knowledge in the spec (93_implementation_defined.md G1;
PRESUMED, log 9). -/
def crcPolynomial : Word := 0xEDB88320#32

/-- The CRC's seed (R59). -/
def crcSeed : Word := 0xFFFFFFFF#32

/-- The CRC's final exclusive or (R59). -/
def crcFinal : Word := 0xFFFFFFFF#32

end Sys2Proof.Config
end

