-- ==== Sys2Proof/Syntax.lean ====
section
/-! DEFINITION. Syntax: the instructions (one constructor per row of spec/opcode_table.json), the two encoding
formats they come in, the rows of the fixed-field map's form, and the statements of test programs (R56, R57). -/

namespace Sys2Proof

/-- The two encodings of spec/opcode_table.json: a 16-bit host command word (R50), or the 8-bit sub-packet index at
frame offset 46 (R47). -/
inductive Format where
  | cmd16
  | pnum8
deriving DecidableEq, Repr

/-- One constructor per row of spec/opcode_table.json. The operand `u` of a sub-packet row is `pnum[7:2]`: `u = 0` is
unit 1, any other value unit 2 (R47). -/
inductive Instr where
  /-- `PUSH b` (R107). -/
  | push (b : Byte)
  /-- `QUERY` (R109). -/
  | query
  /-- `CLEAR` (R110). -/
  | clear
  /-- `BMS_SHAPE0_CURRENTS` (R93). -/
  | bmsShape0Currents (u : BitVec 6)
  /-- `BMS_SHAPE1_CELLS_0_14` (R94). -/
  | bmsShape1Cells0To14 (u : BitVec 6)
  /-- `BMS_SHAPE2_CELLS_15_29` (R95). -/
  | bmsShape2Cells15To29 (u : BitVec 6)
  /-- `BMS_SHAPE3_CELLS_30_41_TEMPS` (R96). -/
  | bmsShape3Cells30To41Temps (u : BitVec 6)
deriving DecidableEq, Repr

/-- The format a row is encoded in. -/
def Instr.format : Instr → Format
  | .push _ => .cmd16
  | .query => .cmd16
  | .clear => .cmd16
  | .bmsShape0Currents _ => .pnum8
  | .bmsShape1Cells0To14 _ => .pnum8
  | .bmsShape2Cells15To29 _ => .pnum8
  | .bmsShape3Cells30To41Temps _ => .pnum8

/-- The bits of an instruction, in its format. -/
inductive Encoded where
  | cmd16 (w : Half)
  | pnum8 (p : Byte)
deriving DecidableEq, Repr

/-- The format of some bits. -/
def Encoded.format : Encoded → Format
  | .cmd16 _ => .cmd16
  | .pnum8 _ => .pnum8

/-- The two BMS units, "1" and "2" (R3, R14). -/
inductive UnitId where
  | one
  | two
deriving DecidableEq, Repr

/-- How a fixed field's raw integer is read (the type column of R44). -/
inductive FieldKind where
  | int16
  | absInt16
  | uint16
  | distance
deriving DecidableEq, Repr

/-- The statements of a test program (R56) and its pseudo-instructions (R57). Operands are the numbers as written;
`Stmt.wellFormed` says which are legal. -/
inductive Stmt where
  | push (b : Nat)
  | query
  | clear
  | reset
  | pushs (bs : List Nat)
  | frame (payload : List Nat)
  | badFrame (payload : List Nat)
deriving DecidableEq, Repr

end Sys2Proof
end

