-- ==== Sys2Proof/WellFormed.lean ====
section
/-! DEFINITION. Well-formedness. The operands of an instruction have exactly the widths of its encoding, so every
term of `Instr` is an instruction; what is checked is the format it may be issued in, and the operands of the
assembler's statements. -/

namespace Sys2Proof

/-- The instruction can stand where bits of format `fmt` are read: a sub-packet row is no command word and a host
operation no sub-packet index (R50, R47). -/
def Instr.wellFormedAs (fmt : Format) (i : Instr) : Bool := i.format == fmt

/-- A number written in a statement is a byte (R9). -/
def isByte (b : Nat) : Bool := b < 256

/-- The operands are bytes, and a frame's payload region has at most 251 of them (R57). -/
def Stmt.wellFormed : Stmt → Bool
  | .push b => isByte b
  | .query => true
  | .clear => true
  | .reset => true
  | .pushs bs => bs.all isByte
  | .frame p => p.all isByte && decide (p.length ≤ 251)
  | .badFrame p => p.all isByte && decide (p.length ≤ 251)

end Sys2Proof
end

