-- ==== Sys2Proof/Decode.lean ====
section
/-! DEFINITION. Decoding of host command words (R50 to R52) and of the sub-packet index (R47), total on any bits, and
the encoder written from the same tables. -/

namespace Sys2Proof

/-- Why a command word is reserved (R52): `z != 0`, `op = 11`, or a QUERY or CLEAR word with `data != 0`. -/
inductive Reserved where
  | zField
  | opField
  | dataField
deriving DecidableEq, Repr

/-- Field `z` of a command word, bits 15..10 (R50). -/
def fieldZ (w : Half) : BitVec 6 := w.extractLsb' 10 6

/-- Field `op`, bits 9..8 (R50). -/
def fieldOp (w : Half) : BitVec 2 := w.extractLsb' 8 2

/-- Field `data`, bits 7..0 (R50). -/
def fieldData (w : Half) : Byte := w.extractLsb' 0 8

/-- Command words (R51); every other word is reserved (R52). Of two reasons the first field from the left is named
(DESIGN CHOICE, log 8). -/
def decodeCommand (w : Half) : Except Reserved Instr :=
  if fieldZ w ≠ 0#6 then .error .zField
  else if fieldOp w = 0#2 then .ok (.push (fieldData w))
  else if fieldOp w = 3#2 then .error .opField
  else if fieldData w ≠ 0#8 then .error .dataField
  else if fieldOp w = 1#2 then .ok .query
  else .ok .clear

/-- `pnum[7:2]`, which names the unit. -/
def pnumUnitField (p : Byte) : BitVec 6 := p.extractLsb' 2 6

/-- `shape(pnum) = pnum mod 4 = pnum[1:0]` (R47). -/
def pnumShape (p : Byte) : BitVec 2 := p.extractLsb' 0 2

/-- The sub-packet index: every byte is one of the four shapes (R47, D9). -/
def decodePnum (p : Byte) : Instr :=
  if pnumShape p = 0#2 then .bmsShape0Currents (pnumUnitField p)
  else if pnumShape p = 1#2 then .bmsShape1Cells0To14 (pnumUnitField p)
  else if pnumShape p = 2#2 then .bmsShape2Cells15To29 (pnumUnitField p)
  else .bmsShape3Cells30To41Temps (pnumUnitField p)

/-- Decoding of bits in either format. -/
def decode : Encoded → Except Reserved Instr
  | .cmd16 w => decodeCommand w
  | .pnum8 p => .ok (decodePnum p)

/-- `unit(pnum) = 1 if pnum < 4 else 2` (R47). -/
def unitOfPnum (p : Byte) : UnitId := if p.toNat < 4 then .one else .two

/-- The bits of an instruction (R51, R47). -/
def encode : Instr → Encoded
  | .push b => .cmd16 (0#8 ++ b)
  | .query => .cmd16 0x0100#16
  | .clear => .cmd16 0x0200#16
  | .bmsShape0Currents u => .pnum8 (u ++ 0#2)
  | .bmsShape1Cells0To14 u => .pnum8 (u ++ 1#2)
  | .bmsShape2Cells15To29 u => .pnum8 (u ++ 2#2)
  | .bmsShape3Cells30To41Temps u => .pnum8 (u ++ 3#2)

/-- The unit that a sub-packet instruction with operand `u` names: `unit` of a `pnum` with these upper bits. -/
def unitOfField (u : BitVec 6) : UnitId := unitOfPnum (u ++ 0#2)

/-- The decoder on an instruction numbered as spec/opcode_table.json numbers it: a row of 16 bits is a command word, a
row of 8 bits a sub-packet index (DESIGN CHOICE, log 4). -/
def decodeTableWord (nbits w : Nat) : Option Instr :=
  if nbits = 16 then
    match decodeCommand (BitVec.ofNat 16 w) with
    | .ok i => some i
    | .error _ => none
  else if nbits = 8 then some (decodePnum (BitVec.ofNat 8 w))
  else none

end Sys2Proof
end

