-- ==== Sys2Proof/Machine/State.lean ====
section
/-! DEFINITION. The machine's state as plain data: the spec's record (spec/10_state.md R14), the outputs of the latest
operation (spec/46_host_interface.md R106), and the host's pending operations; its value at reset (R27, R126); the
reasons a step can stop. -/

namespace Sys2Proof.Machine

/-- The synchronizer's phase (R15). -/
inductive Phase where
  /-- Scanning for the marker. -/
  | idle
  /-- Marker seen; the next byte is the length byte. -/
  | lengthPending
  /-- Reading the `L` bytes that follow the header. -/
  | collecting
deriving DecidableEq, Repr

/-- The slots of one BMS unit, raw words (R14, R20 to R22). -/
structure BmsUnit where
  cell : Vector Half 42
  temp : Vector Half 6
  cur : Half
deriving DecidableEq, Repr

/-- The BMS accumulator: both units (R14). -/
structure Bms where
  unit1 : BmsUnit
  unit2 : BmsUnit
deriving DecidableEq, Repr

/-- The keys of the snapshot: the fourteen fixed fields (R44), then per unit the summaries (R102) and the per-slot
entries (R103). `keyName` gives the spec's spelling (DESIGN CHOICE, log 10). -/
inductive Key where
  | voltage
  | speed
  | tripDistance
  | totalDistance
  | current
  | temperature
  | autoOff
  | chargeMode
  | speedAlert
  | speedTiltback
  | version
  | rideMode
  | pitchAngle
  | hpwm
  | bmsVoltage (u : UnitId)
  | bmsMinCell (u : UnitId)
  | bmsMaxCell (u : UnitId)
  | bmsAvgCell (u : UnitId)
  | bmsDelta (u : UnitId)
  | bmsCell (u : UnitId) (i : Fin 42)
  | bmsTemp (u : UnitId) (t : Fin 6)
  | bmsCurrent (u : UnitId)
deriving DecidableEq, Repr

/-- A snapshot entry: the exact rational `raw / div` (R99). -/
structure Entry where
  raw : Int
  div : Nat
deriving DecidableEq, Repr

/-- The Sample, the fixed fields of one accepted frame (R74), and the whole snapshot (R104): a finite map from keys to
entries, listed in the order the rules add them, no key twice (DESIGN CHOICE, log 10). -/
abbrev Snapshot := List (Key × Entry)

/-- The content of the diagnostic register (R24). -/
structure Mismatch where
  computed : Word
  received : Word
deriving DecidableEq, Repr

/-- The response of a `QUERY`: snapshot register and diagnostic register (R109). -/
structure Response where
  snap : Option Snapshot
  diag : Option Mismatch
deriving DecidableEq, Repr

/-- The block's one kind of event (R114). -/
inductive Event where
  | crcMismatch (computed received : Word)
deriving DecidableEq, Repr

/-- One host operation: a command word (R50) or the power-on reset input (R126). -/
inductive HostInput where
  | command (w : Half)
  | reset
deriving DecidableEq, Repr

/-- A row of the fixed-field map (R44): the presence gate holds when the frame has at least `minLength` bytes, 0 where
the gate is "always". -/
structure FieldRow where
  key : Key
  offset : Nat
  kind : FieldKind
  div : Nat
  minLength : Nat
deriving DecidableEq, Repr

/-- What a step finds before it (DESIGN CHOICE, log 1, log 2). -/
inductive Fetched where
  /-- The host issues nothing. -/
  | nothing
  /-- The power-on reset input. -/
  | reset
  /-- A legal command word. -/
  | run (i : Instr)
  /-- A reserved command word. -/
  | reserved (w : Half) (why : Reserved)
deriving DecidableEq, Repr

/-- Why the model stops with a fault. -/
inductive Fault where
  /-- A frame byte at an offset at or beyond the frame's length was named: R10 leaves such a read undefined and R32
  says none happens. Raised by `PUSH` when it completes a frame, and only in states that R19 excludes; safe (DESIGN
  CHOICE, log 6). -/
  | readOutsideFrame
deriving DecidableEq, Repr

/-- Why the model refuses a step. -/
inductive Refusal where
  /-- The instruction has no meaning in the model; raised by no arm of `exec`; safe. -/
  | notModelled (mnemonic : String)
  /-- The host issued a reserved command word (R52, D24); raised by `step`; safe (DESIGN CHOICE, log 8). -/
  | reservedCommand (w : Half) (why : Reserved)
deriving DecidableEq, Repr

/-- The machine's state. -/
structure State where
  /-- R15. -/
  phase : Phase
  /-- Last byte seen in Idle (R16). -/
  prev1 : Byte
  /-- Partial-marker memory (R16). -/
  prev2 : Byte
  /-- The in-progress frame buffer (R17). -/
  buf : Frame
  /-- The declared length `L` (R18). -/
  len : Byte
  /-- The BMS accumulator (R20 to R22). -/
  bms : Bms
  /-- The published snapshot; `none` is `NoData` (R23). -/
  snap : Option Snapshot
  /-- The diagnostic register (R24). -/
  diag : Option Mismatch
  /-- The response of the latest operation (R106, DESIGN CHOICE, log 3). -/
  response : Option Response
  /-- The events of the latest operation (R106, R114, DESIGN CHOICE, log 3). -/
  events : List Event
  /-- The operations the host will issue, in order (DESIGN CHOICE, log 1): the model's own field. -/
  host : List HostInput
deriving DecidableEq, Repr

/-- A unit with every slot zero (R27). -/
def BmsUnit.zero : BmsUnit :=
  { cell := Vector.replicate 42 0#16, temp := Vector.replicate 6 0#16, cur := 0#16 }

/-- The machine right after the power-on reset (R27, R126), with no operation pending. -/
def State.reset : State :=
  { phase := .idle
    prev1 := 0#8
    prev2 := 0#8
    buf := []
    len := 0#8
    bms := { unit1 := BmsUnit.zero, unit2 := BmsUnit.zero }
    snap := none
    diag := none
    response := none
    events := []
    host := [] }

end Sys2Proof.Machine
end

