-- ==== Sys2Proof/Machine/Operands.lean ====
section
/-! DEFINITION. Operands: the big-endian reads of a frame (spec/00_scope.md R10), the interleaved distance
(spec/30_encoding.md R45), the reading of a fixed field by its type (R44, R49), and the numeric values of BMS slots
(spec/10_state.md R20 to R22). A read answers `none` when it names an offset at or beyond the frame's length, where
R10 gives it no value. -/

namespace Sys2Proof.Machine

/-- `u8(o)` (R10). -/
def readU8 (f : Frame) (o : Nat) : Option Byte := f[o]?

/-- `u16(o)`, big-endian (R10). -/
def readU16 (f : Frame) (o : Nat) : Option Half :=
  match readU8 f o, readU8 f (o + 1) with
  | some hi, some lo => some (hi ++ lo)
  | _, _ => none

/-- `u32(o)`, big-endian (R10). -/
def readU32 (f : Frame) (o : Nat) : Option Word :=
  match readU16 f o, readU16 f (o + 2) with
  | some hi, some lo => some (hi ++ lo)
  | _, _ => none

/-- A distance field at `o .. o+3`: the word at the higher offset is the high half (R45, D10). -/
def readDistance (f : Frame) (o : Nat) : Option Word :=
  match readU16 f (o + 2), readU16 f o with
  | some hi, some lo => some (hi ++ lo)
  | _, _ => none

/-- The raw integer of a fixed field, by the type column of R44. -/
def readField (f : Frame) (o : Nat) : FieldKind → Option Int
  | .int16 => (readU16 f o).map fun w => w.toInt
  | .absInt16 => (readU16 f o).map fun w => (w.toInt.natAbs : Int)
  | .uint16 => (readU16 f o).map fun w => (w.toNat : Int)
  | .distance => (readDistance f o).map fun w => (w.toNat : Int)

/-- `cellval(i, w)`: signed in slots 0..14, unsigned in slots 15..41 (R20). -/
def cellValue (i : Nat) (w : Half) : Int := if i ≤ 14 then w.toInt else w.toNat

/-- The raw value of a temperature or current slot, signed (R21, R22). -/
def signedValue (w : Half) : Int := w.toInt

/-- The slots of unit `u`. -/
def bmsUnit (m : Bms) : UnitId → BmsUnit
  | .one => m.unit1
  | .two => m.unit2

/-- The accumulator with unit `u` replaced. -/
def setBmsUnit (m : Bms) (u : UnitId) (b : BmsUnit) : Bms :=
  match u with
  | .one => { m with unit1 := b }
  | .two => { m with unit2 := b }

end Sys2Proof.Machine
end

