-- ==== Sys2Proof/Machine/Flags.lean ====
section
/-! DEFINITION. The block has no condition flags (spec/10_state.md R26). What stands in their place are the
conditions its rules test, each written once here: completion, floor, presence gates, version gate, valid cell. -/

namespace Sys2Proof.Machine

/-- `|buf| = len + 4`: the frame is complete (R67). -/
def frameComplete (s : State) : Bool := s.buf.length == s.len.toNat + Config.trailerLength

/-- `L <= 38`: the frame is dropped (R69). -/
def belowFloor (l : Byte) : Bool := l.toNat ≤ Config.floor

/-- The presence gate of a fixed field (R44, R74). -/
def fieldPresent (f : Frame) (r : FieldRow) : Bool := r.minLength ≤ f.length

/-- `present(o) := o + 2 <= n` (R92). -/
def present (f : Frame) (o : Nat) : Bool := o + 2 ≤ f.length

/-- `mver >= 5`: the BMS sub-protocol is enabled (R46, R100). -/
def bmsEnabled (mver : Nat) : Bool := Config.bmsVersion ≤ mver

/-- `mver >= 5` and `n > 46`: the accumulator runs (R72, R91). -/
def bmsGate (mver : Nat) (f : Frame) : Bool := bmsEnabled mver && decide (Config.pnumOffset < f.length)

/-- `n > 72`: shape 0 writes the currents (R93). -/
def currentsGate (f : Frame) : Bool := 72 < f.length

/-- `n > 57`: shape 3 writes the temperatures (R96). -/
def tempsGate (f : Frame) : Bool := 57 < f.length

/-- A cell value above zero is valid (R101). -/
def cellValid (v : Int) : Bool := 0 < v

end Sys2Proof.Machine
end

