-- ==== Sys2Proof/Machine/Ops.lean ====
section
/-! DEFINITION. The named operations over the state that the rules share: the step's outputs, sequencing, the frame
buffer, the diagnostic register and its event, publication. `reject` and `toIdle` together are what the block has in
the place of taking an exception (spec/60_exceptions.md R118); there is no return from it (R119). -/

namespace Sys2Proof.Machine

/-- An operation starts with no response and no event (R106, DESIGN CHOICE, log 3). -/
def clearOutputs (s : State) : State := { s with response := none, events := [] }

/-- `emit E`: the event goes on the step's event output (R11, R114). -/
def emit (e : Event) (s : State) : State := { s with events := s.events ++ [e] }

/-- `return (snap, diag)` (R109). -/
def respond (s : State) : State := { s with response := some { snap := s.snap, diag := s.diag } }

/-- `buf <- buf ++ [b]` (R65, R66). -/
def appendByte (b : Byte) (s : State) : State := { s with buf := s.buf ++ [b] }

/-- The marker history of Idle (R16). -/
def setHistory (p1 p2 : Byte) (s : State) : State := { s with prev1 := p1, prev2 := p2 }

/-- `phase <- Idle ; buf <- []` at the end of every completed frame, whatever its outcome (R67). -/
def toIdle (s : State) : State := { s with phase := .idle, buf := [] }

/-- `REJECT(c, r)`: the pair is kept in `diag` and reported; nothing else changes (R71). -/
def reject (computed received : Word) (s : State) : State :=
  emit (.crcMismatch computed received) { s with diag := some ⟨computed, received⟩ }

/-- `snap <- Snap(m)`: the previous snapshot is replaced whole (R105). -/
def publish (m : Snapshot) (s : State) : State := { s with snap := some m }

/-- The BMS accumulator after a sub-packet (R97: its only writer). -/
def setBms (m : Bms) (s : State) : State := { s with bms := m }

/-- Sequencing within a step (R11): the second part reads what the first wrote; a stop ends it. -/
def andThen (o : Host.Outcome State Fault Refusal) (k : State → Host.Outcome State Fault Refusal) :
    Host.Outcome State Fault Refusal :=
  match o with
  | .next s => k s
  | .fault r => .fault r
  | .refused r => .refused r

/-- A read that the rule needs: where R10 leaves it undefined, the model stops (DESIGN CHOICE, log 6). -/
def withRead {α : Type} (r : Option α) (k : α → Host.Outcome State Fault Refusal) :
    Host.Outcome State Fault Refusal :=
  match r with
  | some a => k a
  | none => .fault .readOutsideFrame

end Sys2Proof.Machine
end

