-- ==== Sys2Proof/Machine/Accumulator.lean ====
section
/-! DEFINITION. The BMS sub-packet accumulator (spec/44_bms_accumulator.md): the meanings of the four sub-packet rows
of the opcode table. Each reads the complete frame, which stands in `buf` while the PUSH that completes it runs (R67),
and writes `bms` only. The gate `mver >= 5` and `n > 46` is the caller's (R91, log 5). -/

namespace Sys2Proof.Machine

/-- The word of slot `i` after elements at `off`, `off + 2`, ... were written to the slots from `first` up, `count` of
them: an element that is not present leaves its slot (R92). -/
def slotAfter (f : Frame) (first count off i : Nat) (old : Half) : Half :=
  if first ≤ i ∧ i < first + count ∧ present f (off + 2 * (i - first)) then
    (readU16 f (off + 2 * (i - first))).getD old
  else old

/-- A unit after `count` cell elements from offset `off` were written to its cells from `first` up. -/
def writeCells (f : Frame) (first count off : Nat) (b : BmsUnit) : BmsUnit :=
  { b with cell := Vector.ofFn fun i : Fin 42 => slotAfter f first count off i.val b.cell[i] }

/-- A unit after its six temperature elements from offset `off` were written. -/
def writeTemps (f : Frame) (off : Nat) (b : BmsUnit) : BmsUnit :=
  { b with temp := Vector.ofFn fun t : Fin 6 => slotAfter f 0 6 off t.val b.temp[t] }

/-- Both currents, from offsets 69 and 71 (R93). -/
def writeCurrents (f : Frame) (m : Bms) : Bms :=
  { unit1 := { m.unit1 with cur := (readU16 f 69).getD m.unit1.cur }
    unit2 := { m.unit2 with cur := (readU16 f 71).getD m.unit2.cur } }

/-- Shape 0, `BMS_SHAPE0_CURRENTS` (R93): both units, whatever unit the operand names. -/
def execBmsShape0Currents (_u : BitVec 6) (s : State) : Host.Outcome State Fault Refusal :=
  if currentsGate s.buf then .next (setBms (writeCurrents s.buf s.bms) s) else .next s

/-- Shape 1, `BMS_SHAPE1_CELLS_0_14` (R94). -/
def execBmsShape1Cells0To14 (u : BitVec 6) (s : State) : Host.Outcome State Fault Refusal :=
  .next (setBms (setBmsUnit s.bms (unitOfField u)
    (writeCells s.buf 0 15 53 (bmsUnit s.bms (unitOfField u)))) s)

/-- Shape 2, `BMS_SHAPE2_CELLS_15_29` (R95). -/
def execBmsShape2Cells15To29 (u : BitVec 6) (s : State) : Host.Outcome State Fault Refusal :=
  .next (setBms (setBmsUnit s.bms (unitOfField u)
    (writeCells s.buf 15 15 53 (bmsUnit s.bms (unitOfField u)))) s)

/-- The unit of shape 3 after its cells and, where the gate holds, its temperatures (R96). -/
def shape3Unit (f : Frame) (b : BmsUnit) : BmsUnit :=
  if tempsGate f then writeTemps f 47 (writeCells f 30 12 59 b) else writeCells f 30 12 59 b

/-- Shape 3, `BMS_SHAPE3_CELLS_30_41_TEMPS` (R96). -/
def execBmsShape3Cells30To41Temps (u : BitVec 6) (s : State) : Host.Outcome State Fault Refusal :=
  .next (setBms (setBmsUnit s.bms (unitOfField u)
    (shape3Unit s.buf (bmsUnit s.bms (unitOfField u)))) s)

/-- The case on `p mod 4` (R91), over the decoded sub-packet index. A sub-packet index never decodes to a host
operation, whose arms leave the state alone. -/
def runSubPacket (i : Instr) (s : State) : Host.Outcome State Fault Refusal :=
  match i with
  | .push _ => .next s
  | .query => .next s
  | .clear => .next s
  | .bmsShape0Currents u => execBmsShape0Currents u s
  | .bmsShape1Cells0To14 u => execBmsShape1Cells0To14 u s
  | .bmsShape2Cells15To29 u => execBmsShape2Cells15To29 u s
  | .bmsShape3Cells30To41Temps u => execBmsShape3Cells30To41Temps u s

/-- `BMS_ACCUMULATE(f)`: byte 46 is the sub-packet index (R91). -/
def bmsAccumulate (s : State) : Host.Outcome State Fault Refusal :=
  withRead (readU8 s.buf Config.pnumOffset) fun p => runSubPacket (decodePnum p) s

end Sys2Proof.Machine
end

