-- ==== Sys2Proof/Machine/Aggregator.lean ====
section
/-! DEFINITION. The aggregator and the snapshot (spec/45_aggregator.md): summaries over the valid cells, per-slot
entries, and their composition with the Sample. -/

namespace Sys2Proof.Machine

/-- `V(u)`: the values above zero of cells 0..35 (R101). -/
def validCells (b : BmsUnit) : List Int :=
  (((List.finRange 42).take Config.aggregated).map fun i => cellValue i.val b.cell[i]).filter cellValid

/-- The five summaries of a unit over its valid cells `v :: vs` (R102). -/
def summariesOf (u : UnitId) (v : Int) (vs : List Int) : Snapshot :=
  let sum := (v :: vs).sum
  let least := vs.foldl min v
  let greatest := vs.foldl max v
  [ (.bmsVoltage u, ⟨sum, 1000⟩),
    (.bmsMinCell u, ⟨least, 1000⟩),
    (.bmsMaxCell u, ⟨greatest, 1000⟩),
    (.bmsAvgCell u, ⟨sum, 1000 * (v :: vs).length⟩),
    (.bmsDelta u, ⟨greatest - least, 1000⟩) ]

/-- The summaries of a unit, absent where it has no valid cell (R102). -/
def summaries (u : UnitId) (b : BmsUnit) : Snapshot :=
  match validCells b with
  | [] => []
  | v :: vs => summariesOf u v vs

/-- The 49 per-slot entries of a unit (R103). -/
def perSlot (u : UnitId) (b : BmsUnit) : Snapshot :=
  ((List.finRange 42).map fun i => (Key.bmsCell u i, ⟨cellValue i.val b.cell[i], 1000⟩)) ++
  (((List.finRange 6).map fun t => (Key.bmsTemp u t, ⟨signedValue b.temp[t], 100⟩)) ++
  [(Key.bmsCurrent u, ⟨signedValue b.cur, 100⟩)])

/-- The BMS part of one unit (R104). -/
def unitPart (u : UnitId) (b : BmsUnit) : Snapshot := perSlot u b ++ summaries u b

/-- `COMPOSE(sample, mver, bms)` (R104). -/
def compose (sample : Snapshot) (mver : Nat) (m : Bms) : Snapshot :=
  if bmsEnabled mver then sample ++ (unitPart .one m.unit1 ++ unitPart .two m.unit2) else sample

/-- The digit of a unit in the key names. -/
def unitDigit : UnitId → String
  | .one => "1"
  | .two => "2"

/-- The spec's spelling of a key (R44, R102, R103, D15). -/
def keyName : Key → String
  | .voltage => "voltage"
  | .speed => "speed"
  | .tripDistance => "trip_distance"
  | .totalDistance => "total_distance"
  | .current => "current"
  | .temperature => "temperature"
  | .autoOff => "auto_off"
  | .chargeMode => "charge_mode"
  | .speedAlert => "speed_alert"
  | .speedTiltback => "speed_tiltback"
  | .version => "version"
  | .rideMode => "ride_mode"
  | .pitchAngle => "pitch_angle"
  | .hpwm => "hpwm"
  | .bmsVoltage u => "bms" ++ unitDigit u ++ "_voltage"
  | .bmsMinCell u => "bms" ++ unitDigit u ++ "_min_cell"
  | .bmsMaxCell u => "bms" ++ unitDigit u ++ "_max_cell"
  | .bmsAvgCell u => "bms" ++ unitDigit u ++ "_avg_cell"
  | .bmsDelta u => "bms" ++ unitDigit u ++ "_delta"
  | .bmsCell u i => "bms" ++ unitDigit u ++ "_cell_" ++ toString i.val
  | .bmsTemp u t => "bms" ++ unitDigit u ++ "_temp_" ++ toString t.val
  | .bmsCurrent u => "bms" ++ unitDigit u ++ "_current"

/-- The exact rational an entry denotes (R99). -/
def entryValue (e : Entry) : Rat := mkRat e.raw e.div

/-- The numeric code of an event (R114). -/
def eventCode : Event → Nat
  | .crcMismatch _ _ => 1

end Sys2Proof.Machine
end

