-- ==== Sys2Proof/Machine/Crc.lean ====
section
/-! DEFINITION. The CRC-32 engine (spec/40_crc.md): a pure function with no state. The table is computed, which R58
allows (PRESUMED, log 9). -/

namespace Sys2Proof.Machine

/-- One of the eight rounds that make a table entry (R58). -/
def crcRound (c : Word) : Word :=
  if c.getLsbD 0 then (c >>> 1) ^^^ Config.crcPolynomial else c >>> 1

/-- `k` rounds. -/
def crcRounds : Nat → Word → Word
  | 0, c => c
  | k + 1, c => crcRounds k (crcRound c)

/-- `CRCTAB[i]` (R58). -/
def crcTab (i : Byte) : Word := crcRounds 8 (i.setWidth 32)

/-- `step(crc, b)`: one byte of the loop (R59, R60). -/
def crcStep (crc : Word) (b : Byte) : Word := (crc >>> 8) ^^^ crcTab (crc.setWidth 8 ^^^ b)

/-- `CRC32(s)` (R59). -/
def crc32 (s : List Byte) : Word := s.foldl crcStep Config.crcSeed ^^^ Config.crcFinal

end Sys2Proof.Machine
end

