-- ==== Sys2Proof/Machine/Extractor.lean ====
section
/-! DEFINITION. The fixed-offset field extractor (spec/43_field_extractor.md): the Sample and the major version of an
accepted frame. It writes no state. -/

namespace Sys2Proof.Machine

/-- The fixed-field map, in table order (R44; one row each for R75 to R88). -/
def fieldTable : List FieldRow :=
  [ ⟨.voltage, 4, .int16, 100, 0⟩,
    ⟨.speed, 6, .absInt16, 10, 0⟩,
    ⟨.tripDistance, 8, .distance, 1000, 0⟩,
    ⟨.totalDistance, 12, .distance, 1000, 0⟩,
    ⟨.current, 16, .int16, 10, 0⟩,
    ⟨.temperature, 18, .uint16, 100, 0⟩,
    ⟨.autoOff, 20, .int16, 1, 0⟩,
    ⟨.chargeMode, 22, .int16, 1, 0⟩,
    ⟨.speedAlert, 24, .int16, 1, 0⟩,
    ⟨.speedTiltback, 26, .int16, 1, 0⟩,
    ⟨.version, 28, .int16, 1000, 30⟩,
    ⟨.rideMode, 30, .int16, 1, 32⟩,
    ⟨.pitchAngle, 32, .int16, 100, 34⟩,
    ⟨.hpwm, 34, .int16, 100, 36⟩ ]

/-- The Sample of the rows listed: each row adds its key when its presence gate holds (R74). -/
def extractFields (f : Frame) : List FieldRow → Option Snapshot
  | [] => some []
  | r :: rs =>
    if fieldPresent f r then
      match readField f r.offset r.kind, extractFields f rs with
      | some raw, some rest => some ((r.key, ⟨raw, r.div⟩) :: rest)
      | _, _ => none
    else extractFields f rs

/-- `MVER(sample)`: from the raw integer of `version`, 0 where it is absent or not positive (R89, D17). -/
def majorVersion (sample : Snapshot) : Nat :=
  match sample.lookup .version with
  | none => 0
  | some v => if v.raw ≤ 0 then 0 else (v.raw / 1000).toNat

/-- `EXTRACT(f)` (R74). -/
def extract (f : Frame) : Option (Snapshot × Nat) :=
  (extractFields f fieldTable).map fun sample => (sample, majorVersion sample)

end Sys2Proof.Machine
end

