-- ==== Sys2Proof/Machine/Validator.lean ====
section
/-! DEFINITION. The frame validator (spec/42_validator.md): floor, checksum, rejection, acceptance. The complete frame
stands in `buf`; the synchronizer empties it afterwards (R67). -/

namespace Sys2Proof.Machine

/-- The BMS sub-step of an accepted frame: the accumulator, when its gate holds (R72, R91). -/
def bmsSubStep (mver : Nat) (s : State) : Host.Outcome State Fault Refusal :=
  if bmsGate mver s.buf then bmsAccumulate s else .next s

/-- `ACCEPT(f)`: fields, then the accumulator, then the snapshot from `bms` as just written (R72, D18). -/
def accept (s : State) : Host.Outcome State Fault Refusal :=
  withRead (extract s.buf) fun x =>
    andThen (bmsSubStep x.2 s) fun t => .next (publish (compose x.1 x.2 t.bms) t)

/-- `CRC_CHECK(f)` for a frame with length byte `l` (R70). -/
def crcCheck (l : Byte) (s : State) : Host.Outcome State Fault Refusal :=
  withRead (readU32 s.buf l.toNat) fun received =>
    if crc32 (s.buf.take l.toNat) = received then accept s
    else .next (reject (crc32 (s.buf.take l.toNat)) received s)

/-- `FRAME_DONE(f)`: the floor comes before the checksum (R69, D5). -/
def frameDone (s : State) : Host.Outcome State Fault Refusal :=
  withRead (readU8 s.buf Config.lengthOffset) fun l =>
    if belowFloor l then .next s else crcCheck l s

end Sys2Proof.Machine
end

