-- ==== Sys2Proof/Machine/Synchronizer.lean ====
section
/-! DEFINITION. The frame synchronizer (spec/41_synchronizer.md). -/

namespace Sys2Proof.Machine

/-- `COMPLETE_CHECK`: after every append, the length byte's included (R67, D4). -/
def completeCheck (s : State) : Host.Outcome State Fault Refusal :=
  if frameComplete s then andThen (frameDone s) fun t => .next (toIdle t) else .next s

/-- The marker is complete: the buffer is set to it and the history cleared (R62, D6). -/
def startFrame (s : State) : State :=
  setHistory 0#8 0#8 { s with buf := Config.marker, phase := .lengthPending }

/-- A byte in Idle (R62, else R63, else R64). -/
def pushIdle (b : Byte) (s : State) : State :=
  if b = 0x5C#8 ∧ s.prev1 = 0x5A#8 ∧ s.prev2 = 0xDC#8 then startFrame s
  else if b = 0x5A#8 ∧ s.prev1 = 0xDC#8 then setHistory 0x5A#8 0xDC#8 s
  else setHistory b 0#8 s

/-- The length byte (R65). -/
def pushLength (b : Byte) (s : State) : Host.Outcome State Fault Refusal :=
  completeCheck { appendByte b s with len := b, phase := .collecting }

/-- A byte of the frame (R66). -/
def pushCollect (b : Byte) (s : State) : Host.Outcome State Fault Refusal :=
  completeCheck (appendByte b s)

/-- The case on the phase (R107). -/
def pushByte (b : Byte) (s : State) : Host.Outcome State Fault Refusal :=
  match s.phase with
  | .idle => .next (pushIdle b s)
  | .lengthPending => pushLength b s
  | .collecting => pushCollect b s

end Sys2Proof.Machine
end

