-- ==== Sys2Proof/Machine/HostInterface.lean ====
section
/-! DEFINITION. The host interface (spec/46_host_interface.md): the meanings of the three host operations, the reset
input, chunks, and how the next operation is taken from the host. -/

namespace Sys2Proof.Machine

/-- `PUSH b` (R107). -/
def execPush (b : Byte) (s : State) : Host.Outcome State Fault Refusal := pushByte b (clearOutputs s)

/-- `QUERY` (R109). -/
def execQuery (s : State) : Host.Outcome State Fault Refusal := .next (respond (clearOutputs s))

/-- `CLEAR`: `snap <- NoData`, nothing else (R110, D13). -/
def execClear (s : State) : Host.Outcome State Fault Refusal := .next { clearOutputs s with snap := none }

/-- The power-on reset input: every element at its reset value (R126); the host's later operations stay (DESIGN
CHOICE, log 7). -/
def powerOnReset (s : State) : State := { State.reset with host := s.host }

/-- A chunk: its bytes' `PUSH` steps in order (R108). -/
def pushChunk : List Byte → State → Host.Outcome State Fault Refusal
  | [], s => .next s
  | b :: bs, s => andThen (execPush b s) (pushChunk bs)

/-- What the host issues next, and the state with that operation taken from its list (DESIGN CHOICE, log 1). -/
def fetch (s : State) : Fetched × State :=
  match s.host with
  | [] => (.nothing, s)
  | .reset :: rest => (.reset, { s with host := rest })
  | .command w :: rest =>
    match decodeCommand w with
    | .ok i => (.run i, { s with host := rest })
    | .error why => (.reserved w why, { s with host := rest })

/-- The host issues command word `w` next. -/
def issueCommand (w : Half) (s : State) : State := { s with host := .command w :: s.host }

/-- The bytes before the trailer of a frame with `L = 83`, version 5000 and sub-packet index `p`, whose other bytes are
zero: bytes 47..82 hold the whole sub-packet (R43). -/
def carrierSpan (p : Byte) : Frame :=
  Config.marker ++ [83#8] ++ List.replicate 24 0#8 ++ [0x13#8, 0x88#8] ++ List.replicate 16 0#8 ++ [p] ++
    List.replicate 36 0#8

/-- The big-endian bytes of a 32-bit word. -/
def wordBytes (w : Word) : Frame :=
  [w.extractLsb' 24 8, w.extractLsb' 16 8, w.extractLsb' 8 8, w.extractLsb' 0 8]

/-- All but the last byte of that frame are collected, and the host pushes the last one next: the step that completes
the frame runs the sub-packet instruction `p` (DESIGN CHOICE, log 4, log 5). -/
def placeSubPacket (p : Byte) (s : State) : State :=
  let span := carrierSpan p
  let crc := crc32 span
  issueCommand (0#8 ++ crc.extractLsb' 0 8)
    { s with
      phase := .collecting
      prev1 := 0#8
      prev2 := 0#8
      buf := span ++ (wordBytes crc).take 3
      len := 83#8 }

end Sys2Proof.Machine
end

