-- ==== Sys2Proof/Machine/Dispatch.lean ====
section
/-! DEFINITION. One arm per instruction, each a direct call of its meaning. -/

namespace Sys2Proof.Machine

-- The meaning of an instruction in a state. The sub-packet arms act on the frame in the buffer (DESIGN CHOICE, log 5).
def exec (i : Instr) (s : State) : Host.Outcome State Fault Refusal :=
  match i with
  | .push b => Sys2Proof.Machine.execPush b s
  | .query => Sys2Proof.Machine.execQuery s
  | .clear => Sys2Proof.Machine.execClear s
  | .bmsShape0Currents u => Sys2Proof.Machine.execBmsShape0Currents u s
  | .bmsShape1Cells0To14 u => Sys2Proof.Machine.execBmsShape1Cells0To14 u s
  | .bmsShape2Cells15To29 u => Sys2Proof.Machine.execBmsShape2Cells15To29 u s
  | .bmsShape3Cells30To41Temps u => Sys2Proof.Machine.execBmsShape3Cells30To41Temps u s

end Sys2Proof.Machine
end

