-- ==== Sys2Proof/Machine/Step.lean ====
section
/-! DEFINITION. One step: one host operation (spec/00_scope.md R8, spec/46_host_interface.md R106). -/

namespace Sys2Proof.Machine

/-- Take the host's next operation and perform it; with none pending the block does nothing (R125, DEDUCED, log 2). -/
def step (s : State) : Host.Outcome State Fault Refusal :=
  match fetch s with
  | (.nothing, t) => .next t
  | (.reset, t) => .next (powerOnReset t)
  | (.run i, t) => exec i t
  | (.reserved w why, _) => .refused (.reservedCommand w why)

/-- The state whose very next step runs the instruction with bits `w`: a 16-bit row is the host's next command word; an
8-bit row is the sub-packet index of a frame that the next step completes (DESIGN CHOICE, log 4). -/
def State.withFetchWord (s : State) (nbits w : Nat) : State :=
  if nbits = 16 then issueCommand (BitVec.ofNat 16 w) s
  else if nbits = 8 then placeSubPacket (BitVec.ofNat 8 w) s
  else s

end Sys2Proof.Machine
end

