-- ==== Sys2Proof/Machine/Assembler.lean ====
section
/-! DEFINITION. The assembler of test programs: statements and pseudo-instructions as host operations
(spec/30_encoding.md R56, R57). -/

namespace Sys2Proof.Machine

/-- The command word of `PUSH b` (R51). -/
def pushWord (b : Byte) : HostInput := .command (0#8 ++ b)

/-- The CRC span of `FRAME p`: marker, `L = m + 4`, payload region (R57). -/
def frameSpan (p : Frame) : Frame := Config.marker ++ [BitVec.ofNat 8 (p.length + 4)] ++ p

/-- `FRAME p`: the span and its CRC as a matching trailer (R57). -/
def frameBytes (p : Frame) : Frame := frameSpan p ++ wordBytes (crc32 (frameSpan p))

/-- `BADFRAME p`: `FRAME p` with the last trailer byte complemented (R57). -/
def badFrameBytes (p : Frame) : Frame :=
  frameSpan p ++ wordBytes (crc32 (frameSpan p) ^^^ 0x000000FF#32)

/-- Numbers as bytes. -/
def toBytes (bs : List Nat) : Frame := bs.map (BitVec.ofNat 8)

/-- The host operations of a statement; none for an ill-formed one (DEDUCED, log 13). -/
def assemble (st : Stmt) : Option (List HostInput) :=
  if st.wellFormed then
    some (match st with
      | .push b => [pushWord (BitVec.ofNat 8 b)]
      | .query => [.command 0x0100#16]
      | .clear => [.command 0x0200#16]
      | .reset => [.reset]
      | .pushs bs => (toBytes bs).map pushWord
      | .frame p => (frameBytes (toBytes p)).map pushWord
      | .badFrame p => (badFrameBytes (toBytes p)).map pushWord)
  else none

/-- A whole program: one statement per line, in order (R56). -/
def assembleAll : List Stmt → Option (List HostInput)
  | [] => some []
  | st :: rest =>
    match assemble st, assembleAll rest with
    | some a, some b => some (a ++ b)
    | _, _ => none

end Sys2Proof.Machine
end

