-- ==== Sys2Proof/Safety.lean ====
section
/-! DEFINITION. What counts as a good state and a safe run, and the arithmetic of spec/00_scope.md R10 on whole frames,
in the terms the statements use. -/

namespace Sys2Proof.Machine

/-- The synchronizer's invariants of R19. -/
abbrev SyncInv (s : State) : Prop :=
  (s.phase = .idle → s.buf = []) ∧
  (s.phase = .lengthPending → s.buf = Config.marker ∧ s.prev1 = 0#8 ∧ s.prev2 = 0#8) ∧
  (s.phase = .collecting →
    4 ≤ s.buf.length ∧ s.buf.take 3 = Config.marker ∧ s.buf[3]? = some s.len ∧
    s.buf.length < s.len.toNat + 4 ∧ s.prev1 = 0#8 ∧ s.prev2 = 0#8)

/-- The partial-marker memory holds 0, or `0xDC` while `prev1` holds `0x5A` (R16, R63, R64). -/
abbrev HistoryInv (s : State) : Prop := s.prev2 = 0#8 ∨ s.prev2 = 0xDC#8 ∧ s.prev1 = 0x5A#8

/-- A snapshot is a map (no key twice) of exact rationals (every divisor positive) (R23, R99, R104). -/
abbrev SnapshotWf (m : Snapshot) : Prop := (m.map Prod.fst).Nodup ∧ ∀ e ∈ m, 0 < e.2.div

/-- Whatever snapshot is published or was returned is well-formed. -/
abbrev SnapInv (s : State) : Prop :=
  (∀ m ∈ s.snap, SnapshotWf m) ∧ ∀ r ∈ s.response, ∀ m ∈ r.snap, SnapshotWf m

/-- At most one event, and its pair is in the diagnostic register (R114, R117). -/
abbrev EventInv (s : State) : Prop :=
  s.events.length ≤ 1 ∧ ∀ e ∈ s.events, match e with
    | .crcMismatch c r => s.diag = some ⟨c, r⟩

/-- The machine's invariant. -/
abbrev MachineInv (s : State) : Prop := SyncInv s ∧ HistoryInv s ∧ SnapInv s ∧ EventInv s

/-- The states of the runs the spec defines: reset, any operations issued by the host, and steps (R127). -/
inductive Reachable : State → Prop where
  | reset (ops : List HostInput) : Reachable { State.reset with host := ops }
  | step (s t : State) : Reachable s → Sys2Proof.Machine.step s = .next t → Reachable t

/-- A step does not fault. -/
abbrev StepSafe (s : State) : Prop := ∀ r, step s ≠ .fault r

/-- Byte `o` of a frame as a number (R10); 0 outside, where R10 gives none. -/
def byteAt (f : Frame) (o : Nat) : Nat := (f.getD o 0#8).toNat

/-- `u16(o) = f[o] * 256 + f[o+1]` (R10). -/
def u16At (f : Frame) (o : Nat) : Nat := byteAt f o * 256 + byteAt f (o + 1)

/-- `sext_16(w)`: `w` if `w < 0x8000`, else `w - 0x10000` (R9). -/
def sext16 (w : Nat) : Int := if w < 0x8000 then (w : Int) else (w : Int) - 0x10000

/-- `s16(o) = sext_16(u16(o))` (R10). -/
def s16At (f : Frame) (o : Nat) : Int := sext16 (u16At f o)

/-- `u32(o)` (R10). -/
def u32At (f : Frame) (o : Nat) : Nat :=
  byteAt f o * 2 ^ 24 + byteAt f (o + 1) * 2 ^ 16 + byteAt f (o + 2) * 2 ^ 8 + byteAt f (o + 3)

/-- The length byte of a frame (R41). -/
def lengthByte (f : Frame) : Byte := f.getD 3 0#8

/-- `L` of a frame (R41). -/
def lengthOf (f : Frame) : Nat := (lengthByte f).toNat

/-- The major version of a frame's `version` field (R89). -/
def mverAt (f : Frame) : Nat := if s16At f 28 ≤ 0 then 0 else (s16At f 28 / 1000).toNat

/-- `cellval(i, w)` (R20). -/
def cellvalAt (b : BmsUnit) (i : Fin 42) : Int :=
  if i.val ≤ 14 then sext16 b.cell[i].toNat else (b.cell[i].toNat : Int)

/-- `V(u)` (R101): the values above zero of slots 0..35, in slot order. -/
def validCellsAt (b : BmsUnit) : List Int :=
  (List.finRange 42).filterMap fun i =>
    if i.val < 36 ∧ 0 < cellvalAt b i then some (cellvalAt b i) else none

/-- The unit that is not `u`. -/
def otherUnit : UnitId → UnitId
  | .one => .two
  | .two => .one

/-- A key of the BMS part of the snapshot (R102, R103). -/
def isBmsKey : Key → Bool
  | .bmsVoltage _ => true
  | .bmsMinCell _ => true
  | .bmsMaxCell _ => true
  | .bmsAvgCell _ => true
  | .bmsDelta _ => true
  | .bmsCell _ _ => true
  | .bmsTemp _ _ => true
  | .bmsCurrent _ => true
  | _ => false

/-- Pushing `b` in `s` completes the frame `f`: the last of its `L` bytes, or a length byte 0 (R65 to R67). -/
abbrev Completes (s : State) (b : Byte) (f : Frame) : Prop :=
  SyncInv s ∧ f = s.buf ++ [b] ∧
  (s.phase = .collecting ∧ f.length = s.len.toNat + 4 ∨ s.phase = .lengthPending ∧ b = 0#8)

/-- That frame is above the floor and its checksum differs from its trailer (R69, R70, R71). -/
abbrev Rejected (s : State) (b : Byte) (f : Frame) : Prop :=
  Completes s b f ∧ 38 < lengthOf f ∧ (crc32 (f.take (lengthOf f))).toNat ≠ u32At f (lengthOf f)

/-- That frame is above the floor and its checksum matches (R69, R70, R72). -/
abbrev Accepted (s : State) (b : Byte) (f : Frame) : Prop :=
  Completes s b f ∧ 38 < lengthOf f ∧ (crc32 (f.take (lengthOf f))).toNat = u32At f (lengthOf f)

/-- Some three bytes in a row of `bs` are the marker. -/
def hasMarker : List Byte → Bool
  | [] => false
  | b :: bs => Config.marker.isPrefixOf (b :: bs) || hasMarker bs

/-- Chunks fed one after another (R108). -/
def pushChunks : List (List Byte) → State → Host.Outcome State Fault Refusal
  | [], s => .next s
  | c :: cs, s => andThen (pushChunk c s) (pushChunks cs)

/-- The operation that the host issues first is the power-on reset. -/
abbrev NextIsReset (s : State) : Prop := ∃ rest, s.host = .reset :: rest

/-- The operation that the host issues first is `PUSH b`. -/
abbrev NextIsPush (s : State) (b : Byte) : Prop := ∃ rest, s.host = pushWord b :: rest

end Sys2Proof.Machine
end

