-- ==== Sys2Proof/Certificates/Slice0/Obligations.lean ====
section
/-! DEFINITION. The statements for the provers. Each docstring names the rule of spec/ it formalises. `Completes`,
`Rejected`, `Accepted`, `SyncInv` and the reads `u16At`, `s16At`, `u32At` are those of Sys2Proof/Safety.lean. -/

open Sys2Proof Sys2Proof.Machine

-- Encodings

/-- R51, R47: decoding and encoding are inverse, in both formats, at every operand value. -/
def Obligations.DecodeAndEncodeAreInverse : Prop :=
  ∀ (e : Encoded) (i : Instr), decode e = .ok i ↔ e = encode i

/-- R51: the command opcode map, row by row by its match and mask, and no legal word besides. -/
def Obligations.LegalCommandWordsAreTheMap : Prop :=
  ∀ w : Half,
    (∀ b, decodeCommand w = .ok (.push b) ↔ w &&& 0xFF00#16 = 0x0000#16 ∧ b.toNat = w.toNat % 256) ∧
    (decodeCommand w = .ok .query ↔ w &&& 0xFFFF#16 = 0x0100#16) ∧
    (decodeCommand w = .ok .clear ↔ w &&& 0xFFFF#16 = 0x0200#16) ∧
    ((∃ i, decodeCommand w = .ok i) ↔ (w &&& 0xFF00#16 = 0x0000#16 ∨ w = 0x0100#16 ∨ w = 0x0200#16))

/-- R51, R47: a few words written out from the spec's encodings. -/
def Obligations.SpecWordsDecode : Prop :=
  decode (.cmd16 0b0000000011011100#16) = .ok (.push 0xDC#8) ∧
  decode (.cmd16 0b0000000100000000#16) = .ok .query ∧
  decode (.cmd16 0b0000001000000000#16) = .ok .clear ∧
  decode (.pnum8 0b00000100#8) = .ok (.bmsShape0Currents 1#6) ∧
  decode (.pnum8 0b00000001#8) = .ok (.bmsShape1Cells0To14 0#6) ∧
  decode (.pnum8 0b00000110#8) = .ok (.bmsShape2Cells15To29 1#6) ∧
  decode (.pnum8 0b11111111#8) = .ok (.bmsShape3Cells30To41Temps 63#6)

/-- R47: shape and unit of every sub-packet index. -/
def Obligations.PnumSelectsShapeAndUnit : Prop :=
  ∀ p : Byte, ∃ u : BitVec 6, unitOfField u = (if p.toNat < 4 then UnitId.one else UnitId.two) ∧
    decodePnum p =
      (if p.toNat % 4 = 0 then Instr.bmsShape0Currents u
       else if p.toNat % 4 = 1 then Instr.bmsShape1Cells0To14 u
       else if p.toNat % 4 = 2 then Instr.bmsShape2Cells15To29 u
       else Instr.bmsShape3Cells30To41Temps u)

-- Steps

/-- R106: a step with a legal command word pending is that instruction's effect, the word taken from the host's
list (the list is the model's own, log 1). -/
def Obligations.StepRunsHostCommand : Prop :=
  ∀ (s : State) (w : Half) (rest : List HostInput) (i : Instr),
    s.host = .command w :: rest → decodeCommand w = .ok i → step s = exec i { s with host := rest }

/-- R52: the words outside the map are those with `z != 0`, with `op = 11`, or of `QUERY` or `CLEAR` with `data != 0`,
and a step with one of them pending is refused. -/
def Obligations.ReservedWordIsRefused : Prop :=
  ∀ (s : State) (w : Half) (rest : List HostInput), s.host = .command w :: rest →
    ((∃ why, step s = .refused (.reservedCommand w why)) ↔
      ¬ (w &&& 0xFF00#16 = 0x0000#16 ∨ w = 0x0100#16 ∨ w = 0x0200#16)) ∧
    (¬ (w &&& 0xFF00#16 = 0x0000#16 ∨ w = 0x0100#16 ∨ w = 0x0200#16) ↔
      w.toNat / 1024 ≠ 0 ∨ w.toNat / 256 % 4 = 3 ∨
        (w.toNat / 256 % 4 = 1 ∨ w.toNat / 256 % 4 = 2) ∧ w.toNat % 256 ≠ 0)

/-- R115: a step is refused for a reserved command word and for nothing else. -/
def Obligations.OnlyReservedWordsAreRefused : Prop :=
  ∀ (s : State) (r : Refusal), step s = .refused r →
    ∃ w why rest, s.host = .command w :: rest ∧ decodeCommand w = .error why ∧ r = .reservedCommand w why

/-- R126: the reset input sets every element to its reset value and emits no event. -/
def Obligations.ResetInputSetsEveryElement : Prop :=
  ∀ (s : State) (rest : List HostInput), s.host = .reset :: rest →
    ∃ t, step s = .next t ∧ t.phase = .idle ∧ t.prev1 = 0#8 ∧ t.prev2 = 0#8 ∧ t.buf = [] ∧ t.len = 0#8 ∧
      (∀ u (i : Fin 42), (bmsUnit t.bms u).cell[i] = 0#16) ∧ (∀ u (k : Fin 6), (bmsUnit t.bms u).temp[k] = 0#16) ∧
      (∀ u, (bmsUnit t.bms u).cur = 0#16) ∧ t.snap = none ∧ t.diag = none ∧ t.events = []

/-- 60_exceptions.md section 4 ("does nothing without an operation"): with no operation pending a step leaves the state
as it is (model's choice of a step for that case, log 2). -/
def Obligations.NoOperationChangesNothing : Prop :=
  ∀ s : State, s.host = [] → step s = .next s

/-- 46_host_interface.md section 1: a step takes exactly one operation from the host (the list is the model's own,
log 1). -/
def Obligations.StepTakesOneOperation : Prop :=
  ∀ s t : State, step s = .next t → t.host = s.host.tail

/-- 46_host_interface.md R106, R108: as many steps as bytes, with those bytes' `PUSH` words pending, are the chunk (the
list of pending operations is the model's own, log 1). -/
def Obligations.RunOfPushWordsIsChunk : Prop :=
  ∀ (bs : List Byte) (s : State) (rest : List HostInput),
    (Host.Core.run Sys2Proof.core bs.length { s with host := bs.map pushWord ++ rest } :
      Host.Outcome State Fault Refusal) = pushChunk bs { s with host := rest }

/-- 10_state.md section 6: the values of the state after reset (those of the buffer and of the cells carry the spec's
mark of an inference). -/
def Obligations.ResetStateValues : Prop :=
  State.reset.phase = .idle ∧ State.reset.prev1 = 0#8 ∧ State.reset.prev2 = 0#8 ∧ State.reset.buf = [] ∧
  State.reset.len = 0#8 ∧
  (∀ u (i : Fin 42), (bmsUnit State.reset.bms u).cell[i] = 0#16) ∧
  (∀ u (k : Fin 6), (bmsUnit State.reset.bms u).temp[k] = 0#16) ∧
  (∀ u, (bmsUnit State.reset.bms u).cur = 0#16) ∧ State.reset.snap = none ∧ State.reset.diag = none

-- QUERY and CLEAR

/-- R109. -/
def Obligations.QueryReturnsSnapshotAndDiag : Prop :=
  ∀ s : State, exec .query s = .next { s with response := some ⟨s.snap, s.diag⟩, events := [] }

/-- R110. -/
def Obligations.ClearSetsNoDataOnly : Prop :=
  ∀ s : State, exec .clear s = .next { s with snap := none, response := none, events := [] }

-- PUSH: the synchronizer

/-- R62. -/
def Obligations.PushCompletesMarker : Prop :=
  ∀ s : State, s.phase = .idle → s.prev1 = 0x5A#8 → s.prev2 = 0xDC#8 →
    exec (.push 0x5C#8) s = .next
      { s with buf := [0xDC#8, 0x5A#8, 0x5C#8], phase := .lengthPending, prev1 := 0#8, prev2 := 0#8,
               response := none, events := [] }

/-- R63. -/
def Obligations.PushPartialMarker : Prop :=
  ∀ s : State, s.phase = .idle → s.prev1 = 0xDC#8 →
    exec (.push 0x5A#8) s = .next
      { s with prev2 := 0xDC#8, prev1 := 0x5A#8, response := none, events := [] }

/-- R64. -/
def Obligations.PushOtherByteInIdle : Prop :=
  ∀ (s : State) (b : Byte), s.phase = .idle →
    ¬ (b = 0x5C#8 ∧ s.prev1 = 0x5A#8 ∧ s.prev2 = 0xDC#8) → ¬ (b = 0x5A#8 ∧ s.prev1 = 0xDC#8) →
    exec (.push b) s = .next { s with prev2 := 0#8, prev1 := b, response := none, events := [] }

/-- R65: the length byte, with a completed frame for `L = 0` only. -/
def Obligations.PushLengthByte : Prop :=
  ∀ (s : State) (b : Byte), SyncInv s → s.phase = .lengthPending →
    exec (.push b) s = .next
      (if b = 0#8 then { s with phase := .idle, buf := [], len := 0#8, response := none, events := [] }
       else { s with phase := .collecting, buf := [0xDC#8, 0x5A#8, 0x5C#8, b], len := b,
                     response := none, events := [] })

/-- 41_synchronizer.md section 3: a byte of a frame that does not complete it is appended, whatever it is. -/
def Obligations.PushInsideFrameAppends : Prop :=
  ∀ (s : State) (b : Byte), s.phase = .collecting → s.buf.length + 1 ≠ s.len.toNat + 4 →
    exec (.push b) s = .next { s with buf := s.buf ++ [b], response := none, events := [] }

/-- 41_synchronizer.md section 3: the push that completes a frame returns to Idle with an empty buffer, whatever the
frame's outcome; the history, the host's list and the other outputs of the synchronizer stay. -/
def Obligations.CompletedFrameReturnsToIdle : Prop :=
  ∀ (s : State) (b : Byte) (f : Frame), Completes s b f →
    ∃ t, exec (.push b) s = .next t ∧ t.phase = .idle ∧ t.buf = [] ∧ t.prev1 = 0#8 ∧ t.prev2 = 0#8 ∧
      t.len = lengthByte f ∧ t.response = none ∧ t.host = s.host

/-- 46_host_interface.md section 2 ("every byte value is accepted in every phase"): under R19's invariants every byte
has a next state. -/
def Obligations.EveryByteIsAccepted : Prop :=
  ∀ (s : State) (b : Byte), SyncInv s → ∃ t, exec (.push b) s = .next t ∧ SyncInv t ∧ t.host = s.host

/-- 20_memory.md section 6: a byte that completes no frame leaves snapshot, slots and diagnostic register. -/
def Obligations.BytesOfUnfinishedFramesAreSilent : Prop :=
  ∀ (s : State) (b : Byte), SyncInv s → (∀ f, ¬ Completes s b f) →
    ∃ t, exec (.push b) s = .next t ∧ t.snap = s.snap ∧ t.bms = s.bms ∧ t.diag = s.diag ∧
      t.events = [] ∧ t.response = none

-- PUSH: the validator

/-- R69. -/
def Obligations.FrameBelowFloorIsDropped : Prop :=
  ∀ (s : State) (b : Byte) (f : Frame), Completes s b f → lengthOf f ≤ 38 →
    exec (.push b) s = .next
      { s with phase := .idle, buf := [], len := lengthByte f, response := none, events := [] }

/-- R71. -/
def Obligations.MismatchedFrameIsRejected : Prop :=
  ∀ (s : State) (b : Byte) (f : Frame), Rejected s b f →
    ∃ c r : Word, c = crc32 (f.take (lengthOf f)) ∧ r.toNat = u32At f (lengthOf f) ∧
      exec (.push b) s = .next
        { s with phase := .idle, buf := [], diag := some ⟨c, r⟩, response := none,
                 events := [.crcMismatch c r] }

/-- R72: an accepted frame's sub-steps in order, and nothing else changes. -/
def Obligations.AcceptedFrameSubSteps : Prop :=
  ∀ (s : State) (b : Byte) (f : Frame), Accepted s b f →
    ∃ sample mver t, extract f = some (sample, mver) ∧ exec (.push b) s = .next t ∧
      t = { s with phase := .idle, buf := [], bms := t.bms, snap := some (compose sample mver t.bms),
                   response := none, events := [] } ∧
      (if 5 ≤ mver ∧ 46 < f.length then
        ∃ p u, f[46]? = some p ∧ exec (decodePnum p) { s with buf := f } = .next u ∧ t.bms = u.bms
       else t.bms = s.bms)

/-- 42_validator.md section 3: changing one byte of the payload region or the trailer of a frame that would be
accepted makes it rejected, with snapshot and slots unchanged (an inference the spec marks as its own, with the burst
property G3 behind it; the polynomial is the one of log 9, general knowledge in the spec). -/
def Obligations.SingleByteChangeIsRejected : Prop :=
  ∀ (s s' : State) (b b' : Byte) (f : Frame) (k : Nat) (x : Byte),
    Accepted s b f → 4 ≤ k → k < f.length → f[k]? ≠ some x → Completes s' b' (f.set k x) →
    ∃ t c r, exec (.push b') s' = .next t ∧ c ≠ r ∧ t.diag = some ⟨c, r⟩ ∧ t.events = [.crcMismatch c r] ∧
      t.snap = s'.snap ∧ t.bms = s'.bms

/-- 42_validator.md section 3: a push changes at most `diag`, or `bms` and `snap`, never both groups (an inference the
spec marks as its own). -/
def Obligations.PushChangesOneGroup : Prop :=
  ∀ (s t : State) (b : Byte), exec (.push b) s = .next t →
    t.diag = s.diag ∧ t.events = [] ∨ t.bms = s.bms ∧ t.snap = s.snap

-- The CRC engine

/-- 40_crc.md sections 1 and 2: the table-driven function is the bitwise CRC of the reflected polynomial, which the spec
gives 'from general knowledge, not in source' (PRESUMED, log 9). -/
def Obligations.TableDrivenCrcIsBitwise : Prop :=
  ∀ s : List Byte, crc32 s =
    s.foldl (fun c b => crcRounds 8 (c ^^^ b.setWidth 32)) 0xFFFFFFFF#32 ^^^ 0xFFFFFFFF#32

/-- 40_crc.md sections 1 and 2: check points of the table and the function. All but the CRC of the empty sequence rest on
the polynomial and table that the spec gives 'from general knowledge, not in source' (PRESUMED, log 9). -/
def Obligations.CrcCheckValues : Prop :=
  crcTab 0x01#8 = 0x77073096#32 ∧ crcTab 0x80#8 = 0xEDB88320#32 ∧ crcTab 0xFF#8 = 0x2D02EF8D#32 ∧
  crc32 [] = 0#32 ∧ crc32 [0xDC#8, 0x5A#8, 0x5C#8] = 0x595BBD47#32 ∧
  crc32 [0x31#8, 0x32#8, 0x33#8, 0x34#8, 0x35#8, 0x36#8, 0x37#8, 0x38#8, 0x39#8] = 0xCBF43926#32

-- The field extractor

/-- R75 to R84: the fields that are always present. -/
def Obligations.AcceptedFrameFields : Prop :=
  ∀ (s : State) (b : Byte) (f : Frame), Accepted s b f →
    ∃ t m, exec (.push b) s = .next t ∧ t.snap = some m ∧
      m.lookup .voltage = some ⟨s16At f 4, 100⟩ ∧
      m.lookup .speed = some ⟨|s16At f 6|, 10⟩ ∧
      m.lookup .tripDistance = some ⟨((byteAt f 10 * 2 ^ 24 + byteAt f 11 * 2 ^ 16 + byteAt f 8 * 2 ^ 8 +
        byteAt f 9 : Nat) : Int), 1000⟩ ∧
      m.lookup .totalDistance = some ⟨((byteAt f 14 * 2 ^ 24 + byteAt f 15 * 2 ^ 16 + byteAt f 12 * 2 ^ 8 +
        byteAt f 13 : Nat) : Int), 1000⟩ ∧
      m.lookup .current = some ⟨s16At f 16, 10⟩ ∧
      m.lookup .temperature = some ⟨(u16At f 18 : Int), 100⟩ ∧
      m.lookup .autoOff = some ⟨s16At f 20, 1⟩ ∧
      m.lookup .chargeMode = some ⟨s16At f 22, 1⟩ ∧
      m.lookup .speedAlert = some ⟨s16At f 24, 1⟩ ∧
      m.lookup .speedTiltback = some ⟨s16At f 26, 1⟩

/-- 43_field_extractor.md sections 2 and 4: the fields with a presence gate are present in every accepted frame (an
inference the spec marks as its own). -/
def Obligations.AcceptedFrameGatedFields : Prop :=
  ∀ (s : State) (b : Byte) (f : Frame), Accepted s b f →
    ∃ t m, exec (.push b) s = .next t ∧ t.snap = some m ∧
      m.lookup .version = some ⟨s16At f 28, 1000⟩ ∧
      m.lookup .rideMode = some ⟨s16At f 30, 1⟩ ∧
      m.lookup .pitchAngle = some ⟨s16At f 32, 100⟩ ∧
      m.lookup .hpwm = some ⟨s16At f 34, 100⟩

/-- R85 to R88: each gated field is in the Sample of a frame exactly when its gate holds, for any frame the extractor
answers for. -/
def Obligations.GatedFieldsFollowTheirGates : Prop :=
  ∀ (f : Frame) (sample : Snapshot) (mver : Nat), extract f = some (sample, mver) →
    sample.lookup .version = (if 30 ≤ f.length then some ⟨s16At f 28, 1000⟩ else none) ∧
    sample.lookup .rideMode = (if 32 ≤ f.length then some ⟨s16At f 30, 1⟩ else none) ∧
    sample.lookup .pitchAngle = (if 34 ≤ f.length then some ⟨s16At f 32, 100⟩ else none) ∧
    sample.lookup .hpwm = (if 36 ≤ f.length then some ⟨s16At f 34, 100⟩ else none)

/-- R89. -/
def Obligations.MajorVersionOfSample : Prop :=
  ∀ sample : Snapshot,
    (sample.lookup .version = none → majorVersion sample = 0) ∧
    ∀ e, sample.lookup .version = some e →
      (e.raw ≤ 0 → majorVersion sample = 0) ∧
      (0 < e.raw → 1000 * (majorVersion sample : Int) ≤ e.raw ∧ e.raw < 1000 * ((majorVersion sample : Int) + 1)) ∧
      (e.raw ≤ 32767 → majorVersion sample ≤ 32)

-- The accumulator

/-- R93, with its frame. -/
def Obligations.Shape0WritesBothCurrents : Prop :=
  ∀ (u : BitVec 6) (s : State), ∃ t, exec (.bmsShape0Currents u) s = .next t ∧ t = { s with bms := t.bms } ∧
    (∀ v, (bmsUnit t.bms v).cell = (bmsUnit s.bms v).cell ∧ (bmsUnit t.bms v).temp = (bmsUnit s.bms v).temp) ∧
    (72 < s.buf.length →
      t.bms.unit1.cur.toNat = u16At s.buf 69 ∧ t.bms.unit2.cur.toNat = u16At s.buf 71) ∧
    (s.buf.length ≤ 72 → t = s)

/-- R94 with R92, with its frame. -/
def Obligations.Shape1WritesCells0To14 : Prop :=
  ∀ (u : BitVec 6) (s : State) (v : UnitId), v = (if u = 0#6 then UnitId.one else UnitId.two) →
    ∃ t, exec (.bmsShape1Cells0To14 u) s = .next t ∧ t = { s with bms := t.bms } ∧
      bmsUnit t.bms (otherUnit v) = bmsUnit s.bms (otherUnit v) ∧
      (bmsUnit t.bms v).temp = (bmsUnit s.bms v).temp ∧ (bmsUnit t.bms v).cur = (bmsUnit s.bms v).cur ∧
      ∀ i : Fin 42, ((bmsUnit t.bms v).cell[i]).toNat =
        if i.val < 15 ∧ (53 + 2 * i.val) + 2 ≤ s.buf.length then u16At s.buf (53 + 2 * i.val)
        else ((bmsUnit s.bms v).cell[i]).toNat

/-- R95 with R92, with its frame. -/
def Obligations.Shape2WritesCells15To29 : Prop :=
  ∀ (u : BitVec 6) (s : State) (v : UnitId), v = (if u = 0#6 then UnitId.one else UnitId.two) →
    ∃ t, exec (.bmsShape2Cells15To29 u) s = .next t ∧ t = { s with bms := t.bms } ∧
      bmsUnit t.bms (otherUnit v) = bmsUnit s.bms (otherUnit v) ∧
      (bmsUnit t.bms v).temp = (bmsUnit s.bms v).temp ∧ (bmsUnit t.bms v).cur = (bmsUnit s.bms v).cur ∧
      ∀ i : Fin 42, ((bmsUnit t.bms v).cell[i]).toNat =
        if 15 ≤ i.val ∧ i.val < 30 ∧ (53 + 2 * (i.val - 15)) + 2 ≤ s.buf.length then
          u16At s.buf (53 + 2 * (i.val - 15))
        else ((bmsUnit s.bms v).cell[i]).toNat

/-- R96 with R92, with its frame. -/
def Obligations.Shape3WritesCells30To41AndTemps : Prop :=
  ∀ (u : BitVec 6) (s : State) (v : UnitId), v = (if u = 0#6 then UnitId.one else UnitId.two) →
    ∃ t, exec (.bmsShape3Cells30To41Temps u) s = .next t ∧ t = { s with bms := t.bms } ∧
      bmsUnit t.bms (otherUnit v) = bmsUnit s.bms (otherUnit v) ∧
      (bmsUnit t.bms v).cur = (bmsUnit s.bms v).cur ∧
      (∀ i : Fin 42, ((bmsUnit t.bms v).cell[i]).toNat =
        if 30 ≤ i.val ∧ (59 + 2 * (i.val - 30)) + 2 ≤ s.buf.length then u16At s.buf (59 + 2 * (i.val - 30))
        else ((bmsUnit s.bms v).cell[i]).toNat) ∧
      ∀ k : Fin 6, ((bmsUnit t.bms v).temp[k]).toNat =
        if 57 < s.buf.length ∧ (47 + 2 * k.val) + 2 ≤ s.buf.length then u16At s.buf (47 + 2 * k.val)
        else ((bmsUnit s.bms v).temp[k]).toNat

/-- 44_bms_accumulator.md section 3: three frames of shapes 1, 2 and 3 for one unit, each of at least 83 bytes, write
all its cells and temperatures, whatever they held (an inference the spec marks as its own). -/
def Obligations.ThreeShapesFillAUnit : Prop :=
  ∀ (u : BitVec 6) (s s' : State) (f1 f2 f3 : Frame),
    83 ≤ f1.length → 83 ≤ f2.length → 83 ≤ f3.length →
    ∃ a a' b b' c c',
      exec (.bmsShape1Cells0To14 u) { s with buf := f1 } = .next a ∧
      exec (.bmsShape1Cells0To14 u) { s' with buf := f1 } = .next a' ∧
      exec (.bmsShape2Cells15To29 u) { a with buf := f2 } = .next b ∧
      exec (.bmsShape2Cells15To29 u) { a' with buf := f2 } = .next b' ∧
      exec (.bmsShape3Cells30To41Temps u) { b with buf := f3 } = .next c ∧
      exec (.bmsShape3Cells30To41Temps u) { b' with buf := f3 } = .next c' ∧
      (bmsUnit c.bms (unitOfField u)).cell = (bmsUnit c'.bms (unitOfField u)).cell ∧
      (bmsUnit c.bms (unitOfField u)).temp = (bmsUnit c'.bms (unitOfField u)).temp

/-- R91: byte 46 selects the shape and the unit that the accumulator runs. -/
def Obligations.AccumulatorRunsDecodedSubPacket : Prop :=
  ∀ (s : State) (p : Byte), s.buf[46]? = some p →
    ∃ u : BitVec 6, unitOfField u = (if p.toNat < 4 then UnitId.one else UnitId.two) ∧
      bmsAccumulate s =
        (if p.toNat % 4 = 0 then exec (.bmsShape0Currents u) s
         else if p.toNat % 4 = 1 then exec (.bmsShape1Cells0To14 u) s
         else if p.toNat % 4 = 2 then exec (.bmsShape2Cells15To29 u) s
         else exec (.bmsShape3Cells30To41Temps u) s)

/-- 44_bms_accumulator.md section 3: a step changes the slots only by the reset input or by an accepted frame with
`mver >= 5` and more than 46 bytes. -/
def Obligations.SlotsChangeOnlyBySubPacketOrReset : Prop :=
  ∀ s t : State, SyncInv s → step s = .next t → t.bms ≠ s.bms →
    NextIsReset s ∨ ∃ b f, NextIsPush s b ∧ Accepted s b f ∧ 5 ≤ mverAt f ∧ 46 < f.length

-- The aggregator and the snapshot

/-- R103: the per-slot entries of both units, whatever the slots hold. -/
def Obligations.PerSlotEntriesAreExposed : Prop :=
  ∀ (s : State) (b : Byte) (f : Frame), Accepted s b f → 5 ≤ mverAt f →
    ∃ t m, exec (.push b) s = .next t ∧ t.snap = some m ∧ ∀ u,
      (∀ i : Fin 42, m.lookup (.bmsCell u i) = some ⟨cellvalAt (bmsUnit t.bms u) i, 1000⟩) ∧
      (∀ k : Fin 6, m.lookup (.bmsTemp u k) = some ⟨sext16 ((bmsUnit t.bms u).temp[k]).toNat, 100⟩) ∧
      m.lookup (.bmsCurrent u) = some ⟨sext16 ((bmsUnit t.bms u).cur).toNat, 100⟩

/-- R102 with R101: the summaries of each unit over its valid cells, absent where it has none. -/
def Obligations.SummariesOverValidCells : Prop :=
  ∀ (s : State) (b : Byte) (f : Frame), Accepted s b f → 5 ≤ mverAt f →
    ∃ t m, exec (.push b) s = .next t ∧ t.snap = some m ∧ ∀ u,
      (validCellsAt (bmsUnit t.bms u) = [] →
        m.lookup (.bmsVoltage u) = none ∧ m.lookup (.bmsMinCell u) = none ∧ m.lookup (.bmsMaxCell u) = none ∧
        m.lookup (.bmsAvgCell u) = none ∧ m.lookup (.bmsDelta u) = none) ∧
      (validCellsAt (bmsUnit t.bms u) ≠ [] →
        ∃ lo ∈ validCellsAt (bmsUnit t.bms u), ∃ hi ∈ validCellsAt (bmsUnit t.bms u),
          (∀ v ∈ validCellsAt (bmsUnit t.bms u), lo ≤ v ∧ v ≤ hi) ∧
          m.lookup (.bmsVoltage u) = some ⟨(validCellsAt (bmsUnit t.bms u)).sum, 1000⟩ ∧
          m.lookup (.bmsMinCell u) = some ⟨lo, 1000⟩ ∧
          m.lookup (.bmsMaxCell u) = some ⟨hi, 1000⟩ ∧
          m.lookup (.bmsAvgCell u) =
            some ⟨(validCellsAt (bmsUnit t.bms u)).sum, 1000 * (validCellsAt (bmsUnit t.bms u)).length⟩ ∧
          m.lookup (.bmsDelta u) = some ⟨hi - lo, 1000⟩)

/-- 45_aggregator.md section 2: a frame with `mver < 5` gives a snapshot with no BMS key and leaves the slots. -/
def Obligations.NoBmsKeyBelowVersion5 : Prop :=
  ∀ (s : State) (b : Byte) (f : Frame), Accepted s b f → mverAt f < 5 →
    ∃ t m, exec (.push b) s = .next t ∧ t.snap = some m ∧ t.bms = s.bms ∧
      ∀ k, isBmsKey k = true → m.lookup k = none

/-- 45_aggregator.md section 3: how many keys a published snapshot holds, none of them twice. -/
def Obligations.SnapshotKeyCounts : Prop :=
  ∀ (s : State) (b : Byte) (f : Frame), Accepted s b f →
    ∃ t m, exec (.push b) s = .next t ∧ t.snap = some m ∧ SnapshotWf m ∧
      (mverAt f < 5 → m.length = 14) ∧ (5 ≤ mverAt f → 112 ≤ m.length ∧ m.length ≤ 122)

/-- 45_aggregator.md section 3: publication replaces the snapshot whole: nothing of the previous one shows. -/
def Obligations.PublicationForgetsOldSnapshot : Prop :=
  ∀ (s : State) (b : Byte) (f : Frame) (old : Option Snapshot), Accepted s b f →
    exec (.push b) { s with snap := old } = exec (.push b) s

/-- 70_reset_and_hazards.md section 2: the snapshot, and so a `CLEAR` between any two bytes, has no influence on how
bytes are decoded. -/
def Obligations.SnapshotNeverInfluencesDecoding : Prop :=
  ∀ (bs : List Byte) (s t : State) (old : Option Snapshot), pushChunk bs s = .next t →
    ∃ y, pushChunk bs { s with snap := old } = .next { t with snap := y }

/-- 10_state.md section 4: a step changes the snapshot register only by the reset input, by `CLEAR`, or by an accepted
frame. -/
def Obligations.SnapshotChangesOnlyByFrameClearOrReset : Prop :=
  ∀ s t : State, SyncInv s → step s = .next t → t.snap ≠ s.snap →
    NextIsReset s ∨ ((∃ rest, s.host = .command 0x0200#16 :: rest) ∧ t.snap = none) ∨
      ∃ b f, NextIsPush s b ∧ Accepted s b f ∧ t.snap ≠ none

/-- 10_state.md section 4, 42_validator.md section 2, 60_exceptions.md section 2: a step changes the diagnostic register
only by the reset input or with a mismatch event, which carries the pair the register then holds. -/
def Obligations.DiagChangesOnlyByMismatchOrReset : Prop :=
  ∀ s t : State, step s = .next t → t.diag ≠ s.diag →
    NextIsReset s ∨ ∃ c r, t.diag = some ⟨c, r⟩ ∧ t.events = [.crcMismatch c r]

-- Runs of bytes

/-- R108: how a byte sequence is divided into chunks does not matter. -/
def Obligations.ChunkBoundariesDoNotMatter : Prop :=
  ∀ (cs : List (List Byte)) (s : State), pushChunks cs s = pushChunk cs.flatten s

/-- 41_synchronizer.md section 4, item 2: after the marker exactly `L + 1` bytes return to Idle, whatever they are (an
inference the spec marks as its own). -/
def Obligations.LengthDrivenTermination : Prop :=
  ∀ (s : State) (l : Byte) (bs : List Byte), SyncInv s → s.phase = .lengthPending → bs.length = l.toNat →
    (∃ t, pushChunk (l :: bs) s = .next t ∧ t.phase = .idle) ∧
    ∀ k, k < l.toNat → ∃ t, pushChunk (l :: bs.take k) s = .next t ∧ t.phase = .collecting

/-- 41_synchronizer.md section 4, item 3: from any state with the synchronizer's invariants, 256 bytes contain a return to
Idle (an inference the spec marks as its own). -/
def Obligations.RecoveryWithin256Bytes : Prop :=
  ∀ (s : State) (bs : List Byte), SyncInv s → bs.length = 256 →
    ∃ k, k ≤ 256 ∧ ∃ t, pushChunk (bs.take k) s = .next t ∧ t.phase = .idle ∧ SyncInv t

/-- 41_synchronizer.md section 4, item 1: from a fresh Idle the first three bytes in a row that are the marker, and no
others, start a frame (an inference the spec marks as its own). -/
def Obligations.MarkerIsFoundAtFirstOccurrence : Prop :=
  ∀ (s : State) (bs : List Byte), s.phase = .idle → s.buf = [] → s.prev1 = 0#8 → s.prev2 = 0#8 →
    (hasMarker bs = false → ∃ t, pushChunk bs s = .next t ∧ t.phase = .idle) ∧
    (hasMarker (bs ++ [0xDC#8, 0x5A#8]) = false →
      ∃ t, pushChunk (bs ++ [0xDC#8, 0x5A#8, 0x5C#8]) s = .next t ∧ t.phase = .lengthPending ∧
        t.buf = [0xDC#8, 0x5A#8, 0x5C#8])

/-- R57, R67, R70, R72, R75: the bytes of `FRAME p` with at least 35 payload bytes, pushed in Idle, return to Idle and are
accepted, and the snapshot's voltage is the first word of `p`. -/
def Obligations.AssembledFrameIsAccepted : Prop :=
  ∀ (s : State) (p : Frame), s.phase = .idle → s.buf = [] → 35 ≤ p.length → p.length ≤ 251 →
    ∃ t m, pushChunk (frameBytes p) s = .next t ∧ t.phase = .idle ∧ t.buf = [] ∧ t.events = [] ∧
      t.diag = s.diag ∧ t.snap = some m ∧ m.lookup .voltage = some ⟨s16At p 0, 100⟩

/-- R57, R67, R70, R71: the bytes of `BADFRAME p` with at least 35 payload bytes, pushed in Idle, return to Idle and are
rejected. -/
def Obligations.AssembledBadFrameIsRejected : Prop :=
  ∀ (s : State) (p : Frame), s.phase = .idle → s.buf = [] → 35 ≤ p.length → p.length ≤ 251 →
    ∃ t c, pushChunk (badFrameBytes p) s = .next t ∧ t.phase = .idle ∧ t.buf = [] ∧
      c = crc32 (frameSpan p) ∧ t.diag = some ⟨c, c ^^^ 0x000000FF#32⟩ ∧
      t.events = [.crcMismatch c (c ^^^ 0x000000FF#32)] ∧ t.snap = s.snap ∧ t.bms = s.bms

-- Invariants

/-- Every step keeps the machine's invariant. Its parts, each an inference the spec marks as its own or one the model
draws: the synchronizer's invariants (R19, the spec's inference); the form of the partial-marker memory (drawn from R62 to
R64 and R27); no key twice in a snapshot (R104's disjointness, the spec's inference) and positive divisors (R99); at most
one event in a step (R117, the spec's inference), whose pair is in the diagnostic register (R71, R114). That the response
and the events of the latest operation stand in the state is the model's choice (log 3). -/
def Obligations.StepKeepsInvariant : Prop :=
  ∀ s t : State, MachineInv s → step s = .next t → MachineInv t

/-- 10_state.md sections 2 and 6: the reset state has the machine's invariant, whatever the host will issue. The
synchronizer's part is R19's, an inference the spec marks as its own. The clauses on response and events rest on the
model's choice that both are fields, none and empty at reset (DESIGN CHOICE, log 3), and the list of operations to come is
the model's own (log 1). -/
def Obligations.ResetHasInvariant : Prop :=
  ∀ ops : List HostInput, MachineInv { State.reset with host := ops }

/-- 10_state.md section 2: every reachable state satisfies R19's invariants, and the buffer has at most 258 bytes
between steps (an inference the spec marks as its own). -/
def Obligations.ReachableStatesAreSynchronized : Prop :=
  ∀ s : State, Reachable s → SyncInv s ∧ s.buf.length ≤ 258

/-- 20_memory.md section 3, 60_exceptions.md section 2: no step faults, so no read names an offset outside the frame
(the fault is the model's, log 6). -/
def Obligations.NoStepFaults : Prop :=
  ∀ s : State, SyncInv s → StepSafe s
end

