-- ==== Sys2Proof/Laws/Flags.lean ====
section
/-! SUPPORT. Each condition of Machine/Flags.lean as the arithmetic it stands for. -/

namespace Sys2Proof.Machine

@[simp] theorem frameComplete_iff (s : State) : frameComplete s = true ↔ s.buf.length = s.len.toNat + 4 := beq_iff_eq

@[simp] theorem belowFloor_iff (l : Byte) : belowFloor l = true ↔ l.toNat ≤ 38 :=
  decide_eq_true_iff (p := l.toNat ≤ Config.floor)

@[simp] theorem fieldPresent_iff (f : Frame) (r : FieldRow) : fieldPresent f r = true ↔ r.minLength ≤ f.length :=
  decide_eq_true_iff

@[simp] theorem present_iff (f : Frame) (o : Nat) : present f o = true ↔ o + 2 ≤ f.length := decide_eq_true_iff

@[simp] theorem bmsEnabled_iff (mver : Nat) : bmsEnabled mver = true ↔ 5 ≤ mver :=
  decide_eq_true_iff (p := Config.bmsVersion ≤ mver)

@[simp] theorem bmsGate_iff (mver : Nat) (f : Frame) : bmsGate mver f = true ↔ 5 ≤ mver ∧ 46 < f.length := by
  rw [bmsGate, Bool.and_eq_true, bmsEnabled_iff]
  exact and_congr_right fun _ => decide_eq_true_iff (p := Config.pnumOffset < f.length)

@[simp] theorem currentsGate_iff (f : Frame) : currentsGate f = true ↔ 72 < f.length := decide_eq_true_iff

@[simp] theorem tempsGate_iff (f : Frame) : tempsGate f = true ↔ 57 < f.length := decide_eq_true_iff

@[simp] theorem cellValid_iff (v : Int) : cellValid v = true ↔ 0 < v := decide_eq_true_iff

end Sys2Proof.Machine
end

