-- ==== Sys2Proof/Laws/State.lean ====
section
/-! SUPPORT. For each update of the state, what each field holds after it, so that no proof unfolds an update. -/

namespace Sys2Proof.Machine

variable (s : State)

/-! `clearOutputs` (R106: an operation starts with no output). -/

@[simp] theorem clearOutputs_phase : (clearOutputs s).phase = s.phase := rfl
@[simp] theorem clearOutputs_prev1 : (clearOutputs s).prev1 = s.prev1 := rfl
@[simp] theorem clearOutputs_prev2 : (clearOutputs s).prev2 = s.prev2 := rfl
@[simp] theorem clearOutputs_buf : (clearOutputs s).buf = s.buf := rfl
@[simp] theorem clearOutputs_len : (clearOutputs s).len = s.len := rfl
@[simp] theorem clearOutputs_bms : (clearOutputs s).bms = s.bms := rfl
@[simp] theorem clearOutputs_snap : (clearOutputs s).snap = s.snap := rfl
@[simp] theorem clearOutputs_diag : (clearOutputs s).diag = s.diag := rfl
@[simp] theorem clearOutputs_response : (clearOutputs s).response = none := rfl
@[simp] theorem clearOutputs_events : (clearOutputs s).events = [] := rfl
@[simp] theorem clearOutputs_host : (clearOutputs s).host = s.host := rfl

/-! `emit` (R11, R114). -/

@[simp] theorem emit_phase (e : Event) : (emit e s).phase = s.phase := rfl
@[simp] theorem emit_prev1 (e : Event) : (emit e s).prev1 = s.prev1 := rfl
@[simp] theorem emit_prev2 (e : Event) : (emit e s).prev2 = s.prev2 := rfl
@[simp] theorem emit_buf (e : Event) : (emit e s).buf = s.buf := rfl
@[simp] theorem emit_len (e : Event) : (emit e s).len = s.len := rfl
@[simp] theorem emit_bms (e : Event) : (emit e s).bms = s.bms := rfl
@[simp] theorem emit_snap (e : Event) : (emit e s).snap = s.snap := rfl
@[simp] theorem emit_diag (e : Event) : (emit e s).diag = s.diag := rfl
@[simp] theorem emit_response (e : Event) : (emit e s).response = s.response := rfl
@[simp] theorem emit_events (e : Event) : (emit e s).events = s.events ++ [e] := rfl
@[simp] theorem emit_host (e : Event) : (emit e s).host = s.host := rfl

/-! `respond` (R109). -/

@[simp] theorem respond_phase : (respond s).phase = s.phase := rfl
@[simp] theorem respond_prev1 : (respond s).prev1 = s.prev1 := rfl
@[simp] theorem respond_prev2 : (respond s).prev2 = s.prev2 := rfl
@[simp] theorem respond_buf : (respond s).buf = s.buf := rfl
@[simp] theorem respond_len : (respond s).len = s.len := rfl
@[simp] theorem respond_bms : (respond s).bms = s.bms := rfl
@[simp] theorem respond_snap : (respond s).snap = s.snap := rfl
@[simp] theorem respond_diag : (respond s).diag = s.diag := rfl
@[simp] theorem respond_response : (respond s).response = some { snap := s.snap, diag := s.diag } := rfl
@[simp] theorem respond_events : (respond s).events = s.events := rfl
@[simp] theorem respond_host : (respond s).host = s.host := rfl

/-! `appendByte` (R65, R66). -/

@[simp] theorem appendByte_phase (b : Byte) : (appendByte b s).phase = s.phase := rfl
@[simp] theorem appendByte_prev1 (b : Byte) : (appendByte b s).prev1 = s.prev1 := rfl
@[simp] theorem appendByte_prev2 (b : Byte) : (appendByte b s).prev2 = s.prev2 := rfl
@[simp] theorem appendByte_buf (b : Byte) : (appendByte b s).buf = s.buf ++ [b] := rfl
@[simp] theorem appendByte_len (b : Byte) : (appendByte b s).len = s.len := rfl
@[simp] theorem appendByte_bms (b : Byte) : (appendByte b s).bms = s.bms := rfl
@[simp] theorem appendByte_snap (b : Byte) : (appendByte b s).snap = s.snap := rfl
@[simp] theorem appendByte_diag (b : Byte) : (appendByte b s).diag = s.diag := rfl
@[simp] theorem appendByte_response (b : Byte) : (appendByte b s).response = s.response := rfl
@[simp] theorem appendByte_events (b : Byte) : (appendByte b s).events = s.events := rfl
@[simp] theorem appendByte_host (b : Byte) : (appendByte b s).host = s.host := rfl

/-! `setHistory` (R16). -/

@[simp] theorem setHistory_phase (p q : Byte) : (setHistory p q s).phase = s.phase := rfl
@[simp] theorem setHistory_prev1 (p q : Byte) : (setHistory p q s).prev1 = p := rfl
@[simp] theorem setHistory_prev2 (p q : Byte) : (setHistory p q s).prev2 = q := rfl
@[simp] theorem setHistory_buf (p q : Byte) : (setHistory p q s).buf = s.buf := rfl
@[simp] theorem setHistory_len (p q : Byte) : (setHistory p q s).len = s.len := rfl
@[simp] theorem setHistory_bms (p q : Byte) : (setHistory p q s).bms = s.bms := rfl
@[simp] theorem setHistory_snap (p q : Byte) : (setHistory p q s).snap = s.snap := rfl
@[simp] theorem setHistory_diag (p q : Byte) : (setHistory p q s).diag = s.diag := rfl
@[simp] theorem setHistory_response (p q : Byte) : (setHistory p q s).response = s.response := rfl
@[simp] theorem setHistory_events (p q : Byte) : (setHistory p q s).events = s.events := rfl
@[simp] theorem setHistory_host (p q : Byte) : (setHistory p q s).host = s.host := rfl

/-! `startFrame` (R62). -/

@[simp] theorem startFrame_phase : (startFrame s).phase = .lengthPending := rfl
@[simp] theorem startFrame_prev1 : (startFrame s).prev1 = 0#8 := rfl
@[simp] theorem startFrame_prev2 : (startFrame s).prev2 = 0#8 := rfl
@[simp] theorem startFrame_buf : (startFrame s).buf = Config.marker := rfl
@[simp] theorem startFrame_len : (startFrame s).len = s.len := rfl
@[simp] theorem startFrame_bms : (startFrame s).bms = s.bms := rfl
@[simp] theorem startFrame_snap : (startFrame s).snap = s.snap := rfl
@[simp] theorem startFrame_diag : (startFrame s).diag = s.diag := rfl
@[simp] theorem startFrame_response : (startFrame s).response = s.response := rfl
@[simp] theorem startFrame_events : (startFrame s).events = s.events := rfl
@[simp] theorem startFrame_host : (startFrame s).host = s.host := rfl

/-! `toIdle` (R67). -/

@[simp] theorem toIdle_phase : (toIdle s).phase = .idle := rfl
@[simp] theorem toIdle_prev1 : (toIdle s).prev1 = s.prev1 := rfl
@[simp] theorem toIdle_prev2 : (toIdle s).prev2 = s.prev2 := rfl
@[simp] theorem toIdle_buf : (toIdle s).buf = [] := rfl
@[simp] theorem toIdle_len : (toIdle s).len = s.len := rfl
@[simp] theorem toIdle_bms : (toIdle s).bms = s.bms := rfl
@[simp] theorem toIdle_snap : (toIdle s).snap = s.snap := rfl
@[simp] theorem toIdle_diag : (toIdle s).diag = s.diag := rfl
@[simp] theorem toIdle_response : (toIdle s).response = s.response := rfl
@[simp] theorem toIdle_events : (toIdle s).events = s.events := rfl
@[simp] theorem toIdle_host : (toIdle s).host = s.host := rfl

/-! `reject` (R71). -/

@[simp] theorem reject_phase (c r : Word) : (reject c r s).phase = s.phase := rfl
@[simp] theorem reject_prev1 (c r : Word) : (reject c r s).prev1 = s.prev1 := rfl
@[simp] theorem reject_prev2 (c r : Word) : (reject c r s).prev2 = s.prev2 := rfl
@[simp] theorem reject_buf (c r : Word) : (reject c r s).buf = s.buf := rfl
@[simp] theorem reject_len (c r : Word) : (reject c r s).len = s.len := rfl
@[simp] theorem reject_bms (c r : Word) : (reject c r s).bms = s.bms := rfl
@[simp] theorem reject_snap (c r : Word) : (reject c r s).snap = s.snap := rfl
@[simp] theorem reject_diag (c r : Word) : (reject c r s).diag = some ⟨c, r⟩ := rfl
@[simp] theorem reject_response (c r : Word) : (reject c r s).response = s.response := rfl
@[simp] theorem reject_events (c r : Word) : (reject c r s).events = s.events ++ [.crcMismatch c r] := rfl
@[simp] theorem reject_host (c r : Word) : (reject c r s).host = s.host := rfl

/-! `publish` (R105). -/

@[simp] theorem publish_phase (m : Snapshot) : (publish m s).phase = s.phase := rfl
@[simp] theorem publish_prev1 (m : Snapshot) : (publish m s).prev1 = s.prev1 := rfl
@[simp] theorem publish_prev2 (m : Snapshot) : (publish m s).prev2 = s.prev2 := rfl
@[simp] theorem publish_buf (m : Snapshot) : (publish m s).buf = s.buf := rfl
@[simp] theorem publish_len (m : Snapshot) : (publish m s).len = s.len := rfl
@[simp] theorem publish_bms (m : Snapshot) : (publish m s).bms = s.bms := rfl
@[simp] theorem publish_snap (m : Snapshot) : (publish m s).snap = some m := rfl
@[simp] theorem publish_diag (m : Snapshot) : (publish m s).diag = s.diag := rfl
@[simp] theorem publish_response (m : Snapshot) : (publish m s).response = s.response := rfl
@[simp] theorem publish_events (m : Snapshot) : (publish m s).events = s.events := rfl
@[simp] theorem publish_host (m : Snapshot) : (publish m s).host = s.host := rfl

/-! `setBms` (R97). -/

@[simp] theorem setBms_phase (m : Bms) : (setBms m s).phase = s.phase := rfl
@[simp] theorem setBms_prev1 (m : Bms) : (setBms m s).prev1 = s.prev1 := rfl
@[simp] theorem setBms_prev2 (m : Bms) : (setBms m s).prev2 = s.prev2 := rfl
@[simp] theorem setBms_buf (m : Bms) : (setBms m s).buf = s.buf := rfl
@[simp] theorem setBms_len (m : Bms) : (setBms m s).len = s.len := rfl
@[simp] theorem setBms_bms (m : Bms) : (setBms m s).bms = m := rfl
@[simp] theorem setBms_snap (m : Bms) : (setBms m s).snap = s.snap := rfl
@[simp] theorem setBms_diag (m : Bms) : (setBms m s).diag = s.diag := rfl
@[simp] theorem setBms_response (m : Bms) : (setBms m s).response = s.response := rfl
@[simp] theorem setBms_events (m : Bms) : (setBms m s).events = s.events := rfl
@[simp] theorem setBms_host (m : Bms) : (setBms m s).host = s.host := rfl

/-! `issueCommand` (log 1). -/

@[simp] theorem issueCommand_phase (w : Half) : (issueCommand w s).phase = s.phase := rfl
@[simp] theorem issueCommand_prev1 (w : Half) : (issueCommand w s).prev1 = s.prev1 := rfl
@[simp] theorem issueCommand_prev2 (w : Half) : (issueCommand w s).prev2 = s.prev2 := rfl
@[simp] theorem issueCommand_buf (w : Half) : (issueCommand w s).buf = s.buf := rfl
@[simp] theorem issueCommand_len (w : Half) : (issueCommand w s).len = s.len := rfl
@[simp] theorem issueCommand_bms (w : Half) : (issueCommand w s).bms = s.bms := rfl
@[simp] theorem issueCommand_snap (w : Half) : (issueCommand w s).snap = s.snap := rfl
@[simp] theorem issueCommand_diag (w : Half) : (issueCommand w s).diag = s.diag := rfl
@[simp] theorem issueCommand_response (w : Half) : (issueCommand w s).response = s.response := rfl
@[simp] theorem issueCommand_events (w : Half) : (issueCommand w s).events = s.events := rfl
@[simp] theorem issueCommand_host (w : Half) : (issueCommand w s).host = .command w :: s.host := rfl

/-! `powerOnReset` (R126). -/

@[simp] theorem powerOnReset_phase : (powerOnReset s).phase = .idle := rfl
@[simp] theorem powerOnReset_prev1 : (powerOnReset s).prev1 = 0#8 := rfl
@[simp] theorem powerOnReset_prev2 : (powerOnReset s).prev2 = 0#8 := rfl
@[simp] theorem powerOnReset_buf : (powerOnReset s).buf = [] := rfl
@[simp] theorem powerOnReset_len : (powerOnReset s).len = 0#8 := rfl
@[simp] theorem powerOnReset_bms : (powerOnReset s).bms = { unit1 := BmsUnit.zero, unit2 := BmsUnit.zero } := rfl
@[simp] theorem powerOnReset_snap : (powerOnReset s).snap = none := rfl
@[simp] theorem powerOnReset_diag : (powerOnReset s).diag = none := rfl
@[simp] theorem powerOnReset_response : (powerOnReset s).response = none := rfl
@[simp] theorem powerOnReset_events : (powerOnReset s).events = [] := rfl
@[simp] theorem powerOnReset_host : (powerOnReset s).host = s.host := rfl

end Sys2Proof.Machine
end

