-- ==== Sys2Proof/Laws/Outcomes.lean ====
section
/-! SUPPORT. Sequencing within a step: one lemma per shared operation that says once everything it can answer. -/

namespace Sys2Proof.Machine

variable {k : State → Host.Outcome State Fault Refusal} {s t : State}

@[simp] theorem andThen_next : andThen (.next s) k = k s := rfl
@[simp] theorem andThen_fault (r : Fault) : andThen (.fault r) k = .fault r := rfl
@[simp] theorem andThen_refused (r : Refusal) : andThen (.refused r) k = .refused r := rfl

/-- A sequence answers a next state only through one of its first part. -/
theorem andThen_eq_next {o : Host.Outcome State Fault Refusal} :
    andThen o k = .next t ↔ ∃ u, o = .next u ∧ k u = .next t := by
  cases o <;> simp

/-- A sequence faults in its first part or in its second. -/
theorem andThen_eq_fault {o : Host.Outcome State Fault Refusal} {r : Fault} :
    andThen o k = .fault r ↔ o = .fault r ∨ ∃ u, o = .next u ∧ k u = .fault r := by
  cases o <;> simp

/-- A sequence is refused in its first part or in its second. -/
theorem andThen_eq_refused {o : Host.Outcome State Fault Refusal} {r : Refusal} :
    andThen o k = .refused r ↔ o = .refused r ∨ ∃ u, o = .next u ∧ k u = .refused r := by
  cases o <;> simp

/-- Sequencing is associative. -/
theorem andThen_assoc (o : Host.Outcome State Fault Refusal) (l : State → Host.Outcome State Fault Refusal) :
    andThen (andThen o k) l = andThen o fun u => andThen (k u) l := by
  cases o <;> rfl

@[simp] theorem withRead_some {α : Type} (a : α) (g : α → Host.Outcome State Fault Refusal) :
    withRead (some a) g = g a := rfl
@[simp] theorem withRead_none {α : Type} (g : α → Host.Outcome State Fault Refusal) :
    withRead none g = .fault .readOutsideFrame := rfl

/-- A needed read lets the step go on only where it has a value. -/
theorem withRead_eq_next {α : Type} {r : Option α} {g : α → Host.Outcome State Fault Refusal} :
    withRead r g = .next t ↔ ∃ a, r = some a ∧ g a = .next t := by
  cases r <;> simp

/-- A needed read is never refused by itself. -/
theorem withRead_eq_refused {α : Type} {r : Option α} {g : α → Host.Outcome State Fault Refusal} {q : Refusal} :
    withRead r g = .refused q ↔ ∃ a, r = some a ∧ g a = .refused q := by
  cases r <;> simp

/-- What a byte does in Idle (R62, R63, R64): the marker is complete, or only the history changes. -/
theorem pushIdle_cases (b : Byte) (s : State) :
    (b = 0x5C#8 ∧ s.prev1 = 0x5A#8 ∧ s.prev2 = 0xDC#8 ∧ pushIdle b s = startFrame s) ∨
    (b = 0x5A#8 ∧ s.prev1 = 0xDC#8 ∧ pushIdle b s = setHistory 0x5A#8 0xDC#8 s) ∨
    pushIdle b s = setHistory b 0#8 s := by
  simp only [pushIdle]
  split
  · simp_all
  · split <;> simp_all

/-- A sub-packet instruction answers a next state in which only the slots may differ (R93 to R96). -/
theorem runSubPacket_next (i : Instr) (s : State) : ∃ m, runSubPacket i s = .next (setBms m s) := by
  cases i with
  | push b => exact ⟨s.bms, rfl⟩
  | query => exact ⟨s.bms, rfl⟩
  | clear => exact ⟨s.bms, rfl⟩
  | bmsShape0Currents u =>
    simp only [runSubPacket, execBmsShape0Currents]
    split
    · exact ⟨_, rfl⟩
    · exact ⟨s.bms, rfl⟩
  | bmsShape1Cells0To14 u => exact ⟨_, rfl⟩
  | bmsShape2Cells15To29 u => exact ⟨_, rfl⟩
  | bmsShape3Cells30To41Temps u => exact ⟨_, rfl⟩

/-- The accumulator writes the slots only; it needs byte 46 (R91). -/
theorem bmsAccumulate_eq_next (h : bmsAccumulate s = .next t) : ∃ m, t = setBms m s := by
  obtain ⟨p, -, hp⟩ := withRead_eq_next.mp h
  obtain ⟨m, hm⟩ := runSubPacket_next (decodePnum p) s
  rw [hm] at hp
  exact ⟨m, (Host.Outcome.next.inj hp).symm⟩

/-- The BMS sub-step of an accepted frame: nothing where its gate fails, else the accumulator (R72). -/
theorem bmsSubStep_eq_next {mver : Nat} (h : bmsSubStep mver s = .next t) :
    (bmsGate mver s.buf = false ∧ t = s) ∨ (bmsGate mver s.buf = true ∧ ∃ m, t = setBms m s) := by
  simp only [bmsSubStep] at h
  split at h
  · rename_i hg
    exact .inr ⟨hg, bmsAccumulate_eq_next h⟩
  · rename_i hg
    exact .inl ⟨Bool.eq_false_iff.mpr hg, (Host.Outcome.next.inj h).symm⟩

/-- Acceptance writes the slots, where the gate holds, and publishes (R72). -/
theorem accept_eq_next (h : accept s = .next t) :
    ∃ sample mver m, extract s.buf = some (sample, mver) ∧
      (m = s.bms ∨ bmsGate mver s.buf = true) ∧ t = publish (compose sample mver m) (setBms m s) := by
  obtain ⟨x, hx, h⟩ := withRead_eq_next.mp h
  obtain ⟨u, hu, h⟩ := andThen_eq_next.mp h
  have ht := (Host.Outcome.next.inj h).symm
  rcases bmsSubStep_eq_next hu with ⟨-, rfl⟩ | ⟨hg, m, rfl⟩
  · exact ⟨x.1, x.2, _, hx, .inl rfl, ht⟩
  · exact ⟨x.1, x.2, m, hx, .inr hg, ht⟩

/-- What a completed frame can do (R69, R71, R72): be dropped, be rejected, or be accepted. -/
theorem frameDone_eq_next (h : frameDone s = .next t) :
    ∃ l, readU8 s.buf 3 = some l ∧
      ((l.toNat ≤ 38 ∧ t = s) ∨
       (38 < l.toNat ∧ ∃ r, readU32 s.buf l.toNat = some r ∧
         ((crc32 (s.buf.take l.toNat) ≠ r ∧ t = reject (crc32 (s.buf.take l.toNat)) r s) ∨
          (crc32 (s.buf.take l.toNat) = r ∧ accept s = .next t)))) := by
  obtain ⟨l, hl, h⟩ := withRead_eq_next.mp h
  refine ⟨l, hl, ?_⟩
  by_cases hf : l.toNat ≤ 38
  · have hb : belowFloor l = true := decide_eq_true hf
    simp only [hb, if_true] at h
    exact .inl ⟨hf, (Host.Outcome.next.inj h).symm⟩
  · have hb : belowFloor l = false := decide_eq_false hf
    simp only [hb, Bool.false_eq_true, if_false] at h
    obtain ⟨r, hr, h⟩ := withRead_eq_next.mp h
    refine .inr ⟨by omega, r, hr, ?_⟩
    split at h
    · rename_i hc
      exact .inr ⟨hc, h⟩
    · rename_i hc
      exact .inl ⟨hc, (Host.Outcome.next.inj h).symm⟩

/-- The completion test after an append (R67): nothing, or the completed frame's outcome and the return to Idle. -/
theorem completeCheck_eq_next (h : completeCheck s = .next t) :
    (s.buf.length ≠ s.len.toNat + 4 ∧ t = s) ∨
    (s.buf.length = s.len.toNat + 4 ∧ ∃ u, frameDone s = .next u ∧ t = toIdle u) := by
  simp only [completeCheck, frameComplete, Config.trailerLength, beq_iff_eq] at h
  split at h
  · rename_i hc
    obtain ⟨u, hu, h⟩ := andThen_eq_next.mp h
    exact .inr ⟨hc, u, hu, (Host.Outcome.next.inj h).symm⟩
  · rename_i hc
    exact .inl ⟨hc, (Host.Outcome.next.inj h).symm⟩

/-- What a step finds before it (log 1). -/
theorem fetch_cases (s : State) :
    (s.host = [] ∧ fetch s = (.nothing, s)) ∨
    (∃ rest, s.host = .reset :: rest ∧ fetch s = (.reset, { s with host := rest })) ∨
    (∃ w rest i, s.host = .command w :: rest ∧ decodeCommand w = .ok i ∧
      fetch s = (.run i, { s with host := rest })) ∨
    (∃ w rest why, s.host = .command w :: rest ∧ decodeCommand w = .error why ∧
      fetch s = (.reserved w why, { s with host := rest })) := by
  cases hh : s.host with
  | nil => exact .inl ⟨rfl, by simp [fetch, hh]⟩
  | cons x rest =>
    cases x with
    | reset => exact .inr (.inl ⟨rest, rfl, by simp [fetch, hh]⟩)
    | command w =>
      cases hd : decodeCommand w with
      | ok i => exact .inr (.inr (.inl ⟨w, rest, i, rfl, hd, by simp [fetch, hh, hd]⟩))
      | error why => exact .inr (.inr (.inr ⟨w, rest, why, rfl, hd, by simp [fetch, hh, hd]⟩))

end Sys2Proof.Machine
end

