-- ==== Sys2Proof/Laws/PerInstr.lean ====
section
/-! SUPPORT. Laws that hold for every instruction as syntax, one lemma per constructor. -/

namespace Sys2Proof.Laws

/-- A row of spec/opcode_table.json: its width in bits and its `mask` and `match`. -/
structure OpcodeRow where
  nbits : Nat
  mask : Nat
  value : Nat
deriving DecidableEq, Repr

/-- The row an instruction belongs to, as spec/opcode_table.json has it. -/
def rowOf : Instr → OpcodeRow
  | .push _ => ⟨16, 0xFF00, 0x0000⟩
  | .query => ⟨16, 0xFFFF, 0x0100⟩
  | .clear => ⟨16, 0xFFFF, 0x0200⟩
  | .bmsShape0Currents _ => ⟨8, 0x03, 0x00⟩
  | .bmsShape1Cells0To14 _ => ⟨8, 0x03, 0x01⟩
  | .bmsShape2Cells15To29 _ => ⟨8, 0x03, 0x02⟩
  | .bmsShape3Cells30To41Temps _ => ⟨8, 0x03, 0x03⟩

/-- The width of some bits. -/
def widthOf : Encoded → Nat
  | .cmd16 _ => 16
  | .pnum8 _ => 8

/-- The bits as a number, bit 0 the least significant. -/
def bitsOf : Encoded → Nat
  | .cmd16 w => w.toNat
  | .pnum8 p => p.toNat

/-- The encoding of an instruction has its row's width and, under the row's mask, its row's bits, and the table decoder
reads the instruction back from it. -/
def EncodesItsRow.Statement (i : Instr) : Prop :=
  widthOf (encode i) = (rowOf i).nbits ∧
  bitsOf (encode i) &&& (rowOf i).mask = (rowOf i).value ∧
  decodeTableWord (rowOf i).nbits (bitsOf (encode i)) = some i

theorem EncodesItsRow.push (b : Byte) : EncodesItsRow.Statement (.push b) := by
  revert b; unfold EncodesItsRow.Statement; decide

theorem EncodesItsRow.query : EncodesItsRow.Statement .query := by
  unfold EncodesItsRow.Statement; decide

theorem EncodesItsRow.clear : EncodesItsRow.Statement .clear := by
  unfold EncodesItsRow.Statement; decide

theorem EncodesItsRow.bmsShape0Currents (u : BitVec 6) : EncodesItsRow.Statement (.bmsShape0Currents u) := by
  revert u; unfold EncodesItsRow.Statement; decide

theorem EncodesItsRow.bmsShape1Cells0To14 (u : BitVec 6) : EncodesItsRow.Statement (.bmsShape1Cells0To14 u) := by
  revert u; unfold EncodesItsRow.Statement; decide

theorem EncodesItsRow.bmsShape2Cells15To29 (u : BitVec 6) : EncodesItsRow.Statement (.bmsShape2Cells15To29 u) := by
  revert u; unfold EncodesItsRow.Statement; decide

theorem EncodesItsRow.bmsShape3Cells30To41Temps (u : BitVec 6) :
    EncodesItsRow.Statement (.bmsShape3Cells30To41Temps u) := by
  revert u; unfold EncodesItsRow.Statement; decide

end Sys2Proof.Laws
end

