-- ==== Sys2Proof/Laws/Reads.lean ====
section
/-! SUPPORT. The reads of a frame against the arithmetic of spec/00_scope.md R10: what each answers inside the frame and
that it answers nothing outside. -/

namespace Sys2Proof.Machine

variable {f : Frame} {o : Nat}

theorem byteAt_lt (f : Frame) (o : Nat) : byteAt f o < 256 := (f.getD o 0#8).isLt

theorem u16At_lt (f : Frame) (o : Nat) : u16At f o < 65536 := by
  have h := byteAt_lt f o
  have h' := byteAt_lt f (o + 1)
  simp only [u16At]
  omega

theorem u32At_lt (f : Frame) (o : Nat) : u32At f o < 2 ^ 32 := by
  have h := byteAt_lt f o
  have h1 := byteAt_lt f (o + 1)
  have h2 := byteAt_lt f (o + 2)
  have h3 := byteAt_lt f (o + 3)
  simp only [u32At]
  omega

/-- A 32-bit read is its two 16-bit halves (R10). -/
theorem u32At_eq (f : Frame) (o : Nat) : u32At f o = u16At f o * 65536 + u16At f (o + 2) := by
  simp only [u32At, u16At, Nat.add_assoc, Nat.reduceAdd]
  omega

theorem readU8_of_lt (h : o < f.length) : readU8 f o = some (f.getD o 0#8) := by
  simp [readU8, List.getD_eq_getElem?_getD, List.getElem?_eq_getElem h]

theorem readU8_of_le (h : f.length ≤ o) : readU8 f o = none := by
  simp [readU8, h]

/-- Two bytes side by side as one number. -/
theorem toNat_append_byte {n m : Nat} (a : BitVec n) (b : BitVec m) : (a ++ b).toNat = a.toNat * 2 ^ m + b.toNat := by
  rw [BitVec.toNat_append, Nat.shiftLeft_eq, Nat.mul_comm, ← Nat.two_pow_add_eq_or_of_lt b.isLt]

/-- `u16(o)` inside the frame. -/
theorem readU16_of_le (h : o + 2 ≤ f.length) : readU16 f o = some (BitVec.ofNat 16 (u16At f o)) := by
  have h1 : readU8 f o = some (f.getD o 0#8) := readU8_of_lt (by omega)
  have h2 : readU8 f (o + 1) = some (f.getD (o + 1) 0#8) := readU8_of_lt (by omega)
  simp only [readU16, h1, h2, Option.some.injEq]
  apply BitVec.eq_of_toNat_eq
  rw [toNat_append_byte, BitVec.toNat_ofNat, Nat.mod_eq_of_lt (u16At_lt f o)]
  rfl

/-- `u16(o)` is not defined where a byte of it is outside the frame. -/
theorem readU16_of_lt (h : f.length < o + 2) : readU16 f o = none := by
  have h2 : readU8 f (o + 1) = none := readU8_of_le (by omega)
  simp [readU16, h2]

/-- The words a read answers are those of R10. -/
theorem readU16_eq_some {w : Half} (h : readU16 f o = some w) : o + 2 ≤ f.length ∧ w.toNat = u16At f o := by
  by_cases hl : o + 2 ≤ f.length
  · rw [readU16_of_le hl, Option.some.injEq] at h
    subst h
    exact ⟨hl, by rw [BitVec.toNat_ofNat, Nat.mod_eq_of_lt (u16At_lt f o)]⟩
  · rw [readU16_of_lt (by omega)] at h
    cases h

/-- `u32(o)` inside the frame. -/
theorem readU32_of_le (h : o + 4 ≤ f.length) : readU32 f o = some (BitVec.ofNat 32 (u32At f o)) := by
  simp only [readU32, readU16_of_le (show o + 2 ≤ f.length by omega),
    readU16_of_le (show o + 2 + 2 ≤ f.length by omega), Option.some.injEq]
  apply BitVec.eq_of_toNat_eq
  rw [toNat_append_byte, BitVec.toNat_ofNat, BitVec.toNat_ofNat, BitVec.toNat_ofNat,
    Nat.mod_eq_of_lt (u16At_lt f o), Nat.mod_eq_of_lt (u16At_lt f (o + 2)), Nat.mod_eq_of_lt (u32At_lt f o),
    u32At_eq]
  rfl

/-- `u32(o)` is not defined where a byte of it is outside the frame. -/
theorem readU32_of_lt (h : f.length < o + 4) : readU32 f o = none := by
  simp only [readU32, readU16_of_lt (show f.length < o + 2 + 2 by omega)]
  split <;> simp_all

/-- A distance inside the frame: the bytes in the interleaved order of R45. -/
theorem readDistance_of_le (h : o + 4 ≤ f.length) :
    readDistance f o = some (BitVec.ofNat 32 (u16At f (o + 2) * 65536 + u16At f o)) := by
  have h1 := u16At_lt f o
  have h2 := u16At_lt f (o + 2)
  simp only [readDistance, readU16_of_le (show o + 2 ≤ f.length by omega),
    readU16_of_le (show o + 2 + 2 ≤ f.length by omega), Option.some.injEq]
  apply BitVec.eq_of_toNat_eq
  rw [toNat_append_byte, BitVec.toNat_ofNat, BitVec.toNat_ofNat, BitVec.toNat_ofNat,
    Nat.mod_eq_of_lt h1, Nat.mod_eq_of_lt h2, Nat.mod_eq_of_lt (by omega)]
  rfl

/-- A 16-bit word as a signed number is `sext_16` of it (R9). -/
theorem toInt_eq_sext16 (w : Half) : w.toInt = sext16 w.toNat := by
  have := w.isLt
  rw [BitVec.toInt_eq_toNat_cond, sext16]
  split <;> split <;> omega

theorem toInt_ofNat_u16At (f : Frame) (o : Nat) : (BitVec.ofNat 16 (u16At f o)).toInt = s16At f o := by
  rw [toInt_eq_sext16, BitVec.toNat_ofNat, Nat.mod_eq_of_lt (u16At_lt f o), s16At]

theorem toNat_ofNat_u16At (f : Frame) (o : Nat) : (BitVec.ofNat 16 (u16At f o)).toNat = u16At f o := by
  rw [BitVec.toNat_ofNat, Nat.mod_eq_of_lt (u16At_lt f o)]

end Sys2Proof.Machine
end

