-- ==== Sys2Proof/Laws/Slots.lean ====
section
/-! SUPPORT. The BMS slots: what a sub-packet's writes leave in each slot (spec/44_bms_accumulator.md R92 to R96), and
that the units and the two slot arrays are apart. -/

namespace Sys2Proof.Machine

variable (m : Bms) (u : UnitId) (b : BmsUnit) (f : Frame)

@[simp] theorem bmsUnit_setBmsUnit : bmsUnit (setBmsUnit m u b) u = b := by cases u <;> rfl

@[simp] theorem bmsUnit_setBmsUnit_other : bmsUnit (setBmsUnit m u b) (otherUnit u) = bmsUnit m (otherUnit u) := by
  cases u <;> rfl

@[simp] theorem bmsUnit_one : bmsUnit m .one = m.unit1 := rfl
@[simp] theorem bmsUnit_two : bmsUnit m .two = m.unit2 := rfl

@[simp] theorem writeCells_temp (i n o : Nat) : (writeCells f i n o b).temp = b.temp := by simp only [writeCells]
@[simp] theorem writeCells_cur (i n o : Nat) : (writeCells f i n o b).cur = b.cur := by simp only [writeCells]
@[simp] theorem writeTemps_cell (o : Nat) : (writeTemps f o b).cell = b.cell := by simp only [writeTemps]
@[simp] theorem writeTemps_cur (o : Nat) : (writeTemps f o b).cur = b.cur := by simp only [writeTemps]
@[simp] theorem writeCurrents_unit1_cell : (writeCurrents f m).unit1.cell = m.unit1.cell := rfl
@[simp] theorem writeCurrents_unit1_temp : (writeCurrents f m).unit1.temp = m.unit1.temp := rfl
@[simp] theorem writeCurrents_unit2_cell : (writeCurrents f m).unit2.cell = m.unit2.cell := rfl
@[simp] theorem writeCurrents_unit2_temp : (writeCurrents f m).unit2.temp = m.unit2.temp := rfl

/-- A slot in range whose element is present holds the element's word; any other slot is unchanged (R92). -/
theorem slotAfter_toNat (first count off i : Nat) (old : Half) :
    (slotAfter f first count off i old).toNat =
      if first ≤ i ∧ i < first + count ∧ off + 2 * (i - first) + 2 ≤ f.length then u16At f (off + 2 * (i - first))
      else old.toNat := by
  simp only [slotAfter, present, decide_eq_true_eq]
  split
  · rename_i h
    rw [readU16_of_le h.2.2, Option.getD_some, toNat_ofNat_u16At]
  · rfl

/-- What the cell writes of a sub-packet leave in cell `i`. -/
theorem writeCells_getElem (first count off : Nat) (i : Fin 42) :
    (writeCells f first count off b).cell[i] = slotAfter f first count off i.val b.cell[i] := by
  simp [writeCells]

/-- What the temperature writes of a sub-packet leave in temperature `t`. -/
theorem writeTemps_getElem (off : Nat) (t : Fin 6) :
    (writeTemps f off b).temp[t] = slotAfter f 0 6 off t.val b.temp[t] := by
  simp [writeTemps]

/-- `unit(pnum)` is decided by the upper bits of `pnum` alone (R47). -/
theorem unitOfField_eq (x : BitVec 6) : unitOfField x = if x = 0#6 then .one else .two := by
  revert x
  decide

/-- A value of a cell slot as R20 gives it. -/
theorem cellValue_eq (i : Fin 42) : cellValue i.val b.cell[i] = cellvalAt b i := by
  simp only [cellValue, cellvalAt, toInt_eq_sext16]

end Sys2Proof.Machine
end

