-- ==== Sys2Proof/Tests/Slice0.lean ====
section
/-! SUPPORT. Tests. Expected values are those of spec/95_test_vectors.md (the vector's name stands in each docstring) or
worked out by hand from the rules named. The second half holds, for each statement of
Sys2Proof/Certificates/Slice0/Obligations.lean with hypotheses, a witness that meets them. -/

namespace Sys2Proof.Tests

open Sys2Proof.Machine

set_option maxRecDepth 8000

-- Helpers

/-- The outcome is a next state with property `p`. -/
def nextWith (p : State → Bool) : Host.Outcome State Fault Refusal → Bool
  | .next t => p t
  | _ => false

/-- The outcome is a refusal with property `p`. -/
def refusedWith (p : Refusal → Bool) : Host.Outcome State Fault Refusal → Bool
  | .refused r => p r
  | _ => false

theorem nextWith_iff (p : State → Bool) (o : Host.Outcome State Fault Refusal) :
    nextWith p o = true ↔ ∃ t, o = .next t ∧ p t = true := by
  cases o <;> simp [nextWith]

theorem refusedWith_iff (p : Refusal → Bool) (o : Host.Outcome State Fault Refusal) :
    refusedWith p o = true ↔ ∃ r, o = .refused r ∧ p r = true := by
  cases o <;> simp [refusedWith]

/-- From reset, all but the last byte of frame `f` are collected. -/
def lastPending (f : Frame) : State :=
  { State.reset with phase := .collecting, buf := f.dropLast, len := f.getD 3 0#8 }

/-- The last byte of a frame. -/
def lastByte (f : Frame) : Byte := f.getLastD 0#8

/-- The push that completes `f`. -/
def finish (f : Frame) : Host.Outcome State Fault Refusal := exec (.push (lastByte f)) (lastPending f)

/-- The marker seen, the length byte to come. -/
def afterMarker : State := { State.reset with phase := .lengthPending, buf := [0xDC#8, 0x5A#8, 0x5C#8] }

/-- `n` zero bytes. -/
def zeros (n : Nat) : Frame := List.replicate n 0#8

/-- `f` with the big-endian words listed put at their offsets. -/
def putWords (f : Frame) : List (Nat × Half) → Frame
  | [] => f
  | (o, w) :: rest => putWords ((f.set o (w.extractLsb' 8 8)).set (o + 1) (w.extractLsb' 0 8)) rest

/-- A frame of `n` bytes that stands in the buffer, zero but for the words listed. -/
def bufWith (n : Nat) (ws : List (Nat × Half)) : State := { State.reset with buf := putWords (zeros n) ws }

/-- `FRAME` of a payload region of `m` bytes, zero but for version `v`, sub-packet index `p` and the words listed, at
frame offsets. -/
def bmsFrame (m : Nat) (v : Half) (p : Byte) (ws : List (Nat × Half)) : Frame :=
  frameBytes (((putWords (zeros (m + 4)) ((28, v) :: ws)).set 46 p).drop 4)

/-- Vector V1. -/
def v1 : Frame := [0xDC#8, 0x5A#8, 0x5C#8, 0x27#8] ++ zeros 35 ++ [0x7C#8, 0x35#8, 0xE7#8, 0xA1#8]

/-- Vector V2. -/
def v2 : Frame := [0xDC#8, 0x5A#8, 0x5C#8, 0x27#8] ++ zeros 35 ++ [0x7C#8, 0x35#8, 0xE7#8, 0x5E#8]

/-- Vector V3: L = 38. -/
def v3 : Frame := [0xDC#8, 0x5A#8, 0x5C#8, 0x26#8] ++ zeros 38

/-- Vector F1. -/
def f1 : Frame :=
  [0xDC#8, 0x5A#8, 0x5C#8, 0x27#8, 0x27#8, 0x24#8, 0xFF#8, 0x01#8, 0x01#8, 0x02#8, 0x03#8, 0x04#8, 0x00#8, 0x00#8,
   0x00#8, 0x10#8] ++
  [0xFF#8, 0xF6#8, 0xFF#8, 0xFF#8, 0x01#8, 0x2C#8, 0x00#8, 0x01#8, 0x00#8, 0x32#8, 0x00#8, 0x3C#8, 0x0F#8, 0xA5#8,
   0x00#8, 0x02#8] ++
  [0xFF#8, 0x6A#8, 0x13#8, 0x88#8, 0x00#8, 0x00#8, 0x00#8, 0x7C#8, 0x50#8, 0x5A#8, 0xE4#8]

/-- Vector B10b: n = 47, the sub-packet index is the last trailer byte. -/
def b10b : Frame :=
  [0xDC#8, 0x5A#8, 0x5C#8, 0x2B#8] ++ zeros 24 ++ [0x13#8, 0x88#8] ++ zeros 13 ++ [0xCC#8, 0x7B#8, 0x5E#8, 0x3A#8]

/-- Vector S13: the longest frame, n = 259. -/
def s13 : Frame := [0xDC#8, 0x5A#8, 0x5C#8, 0xFF#8] ++ zeros 255

-- Well-formedness: each check refuses an ill-formed term

theorem test_wf_subPacket_is_no_command : (Instr.bmsShape0Currents 0#6).wellFormedAs .cmd16 = false := by decide
theorem test_wf_operation_is_no_subPacket : (Instr.push 0#8).wellFormedAs .pnum8 = false := by decide
theorem test_wf_operation_is_a_command : (Instr.push 0#8).wellFormedAs .cmd16 = true := by decide
theorem test_wf_push_byte : (Stmt.push 256).wellFormed = false ∧ (Stmt.push 255).wellFormed = true := by decide
theorem test_wf_pushs_byte : (Stmt.pushs [0, 256]).wellFormed = false := by decide
theorem test_wf_frame_byte : (Stmt.frame [256]).wellFormed = false := by decide
theorem test_wf_frame_length :
    (Stmt.frame (List.replicate 252 0)).wellFormed = false ∧ (Stmt.frame (List.replicate 251 0)).wellFormed = true := by
  decide
theorem test_wf_badFrame_byte : (Stmt.badFrame [256]).wellFormed = false := by decide
theorem test_wf_badFrame_length : (Stmt.badFrame (List.replicate 252 0)).wellFormed = false := by decide

-- Decoding: words written out bit by bit from R50, R51 and R47

theorem test_decode_push : decodeCommand 0b000000_00_01011010#16 = .ok (.push 0x5A#8) := by decide
theorem test_decode_query : decodeCommand 0b000000_01_00000000#16 = .ok .query := by decide
theorem test_decode_clear : decodeCommand 0b000000_10_00000000#16 = .ok .clear := by decide
theorem test_decode_shape0 : decodePnum 0b000001_00#8 = .bmsShape0Currents 1#6 := by decide
theorem test_decode_shape1 : decodePnum 0b000010_01#8 = .bmsShape1Cells0To14 2#6 := by decide
theorem test_decode_shape2 : decodePnum 0b000000_10#8 = .bmsShape2Cells15To29 0#6 := by decide
theorem test_decode_shape3 : decodePnum 0b100000_11#8 = .bmsShape3Cells30To41Temps 32#6 := by decide
theorem test_decode_units : unitOfField 0#6 = .one ∧ unitOfField 1#6 = .two ∧ unitOfField 32#6 = .two := by decide

/-- Vector H5. -/
theorem test_decode_reserved :
    decodeCommand 0x0300#16 = .error .opField ∧ decodeCommand 0x0101#16 = .error .dataField ∧
    decodeCommand 0x0201#16 = .error .dataField ∧ decodeCommand 0x0400#16 = .error .zField ∧
    decodeCommand 0xFFFF#16 = .error .zField := by decide

theorem test_decodeTableWord :
    decodeTableWord 16 0x0100 = some .query ∧ decodeTableWord 16 0x0300 = none ∧
    decodeTableWord 8 0x07 = some (.bmsShape3Cells30To41Temps 1#6) := by decide

/-- R57: `FRAME` of 35 zeros is vector V1, `BADFRAME` of them vector V2. -/
theorem test_assemble : frameBytes (zeros 35) = v1 ∧ badFrameBytes (zeros 35) = v2 := by decide

-- One step each

/-- Vector F1: `PUSH` of the last byte. -/
theorem test_push_accepts :
    nextWith (fun t => decide (t.phase = .idle) && decide (t.diag = none) && decide (t.snap = some
      [(.voltage, ⟨10020, 100⟩), (.speed, ⟨255, 10⟩), (.tripDistance, ⟨50594050, 1000⟩),
       (.totalDistance, ⟨1048576, 1000⟩), (.current, ⟨-10, 10⟩), (.temperature, ⟨65535, 100⟩), (.autoOff, ⟨300, 1⟩),
       (.chargeMode, ⟨1, 1⟩), (.speedAlert, ⟨50, 1⟩), (.speedTiltback, ⟨60, 1⟩), (.version, ⟨4005, 1000⟩),
       (.rideMode, ⟨2, 1⟩), (.pitchAngle, ⟨-150, 100⟩), (.hpwm, ⟨5000, 100⟩)])) (finish f1) = true := by decide

/-- Vector V2. -/
theorem test_push_rejects :
    nextWith (fun t => decide (t.snap = none) && decide (t.diag = some ⟨0x7C35E7A1#32, 0x7C35E75E#32⟩) &&
      decide (t.events = [.crcMismatch 0x7C35E7A1#32 0x7C35E75E#32])) (finish v2) = true := by decide

/-- Vector H7: the response of `QUERY` after V2. -/
theorem test_query :
    nextWith (fun t => decide (t.response = some ⟨none, some ⟨0x7C35E7A1#32, 0x7C35E75E#32⟩⟩))
      (exec .query { State.reset with diag := some ⟨0x7C35E7A1#32, 0x7C35E75E#32⟩ }) = true := by decide

/-- Vector H7: `CLEAR` leaves the diagnostic register. -/
theorem test_clear :
    nextWith (fun t => decide (t.snap = none) && decide (t.diag = some ⟨1#32, 2#32⟩))
      (exec .clear { State.reset with snap := some [(.voltage, ⟨1, 100⟩)], diag := some ⟨1#32, 2#32⟩ }) = true := by
  decide

/-- Vector B1. -/
theorem test_shape0_both_currents :
    nextWith (fun t => decide (t.bms.unit1.cur = 0x01F4#16) && decide (t.bms.unit2.cur = 0xFE0C#16))
      (exec (.bmsShape0Currents 1#6) (bufWith 77 [(69, 0x01F4#16), (71, 0xFE0C#16)])) = true := by decide

/-- Vector B2b: the trailer is read as data. -/
theorem test_shape0_reads_trailer :
    nextWith (fun t => decide (t.bms.unit1.cur = 0x460A#16) && decide (t.bms.unit2.cur = 0x4262#16))
      (finish (bmsFrame 65 5000#16 0#8 [])) = true := by decide

/-- Vector B4. -/
theorem test_shape1_unit2 :
    nextWith (fun t => decide (t.bms.unit2.cell[0] = 0xFFFF#16) && decide (t.bms.unit2.cell[1] = 0x0BB8#16) &&
      decide (t.bms.unit1 = BmsUnit.zero))
      (exec (.bmsShape1Cells0To14 1#6) (bufWith 87 [(53, 0xFFFF#16), (55, 0x0BB8#16)])) = true := by decide

/-- Vector B8: elements past the end of the frame leave their slots. -/
theorem test_shape1_truncated :
    nextWith (fun t => decide (t.bms.unit1.cell[0] = 0x0FA0#16) && decide (t.bms.unit1.cell[1] = 0x0011#16) &&
      decide (t.bms.unit1.cell[2] = 0x2722#16) && decide (t.bms.unit1.cell[3] = 0#16))
      (finish (bmsFrame 52 5000#16 1#8 [(53, 0x0FA0#16)])) = true := by decide

/-- Vector B5. -/
theorem test_shape2_unit2 :
    nextWith (fun t => decide (t.bms.unit2.cell[15] = 0xFFFF#16) && decide (t.bms.unit2.cell[16] = 0#16) &&
      decide (t.bms.unit1 = BmsUnit.zero))
      (exec (.bmsShape2Cells15To29 1#6) (bufWith 87 [(53, 0xFFFF#16)])) = true := by decide

/-- Vector B12, ends of both runs. -/
theorem test_shape3_unit2 :
    nextWith (fun t => decide (t.bms.unit2.temp[0] = 2500#16) && decide (t.bms.unit2.temp[5] = 2505#16) &&
      decide (t.bms.unit2.cell[30] = 3900#16) && decide (t.bms.unit2.cell[41] = 3911#16))
      (exec (.bmsShape3Cells30To41Temps 1#6)
        (bufWith 87 [(47, 2500#16), (57, 2505#16), (59, 3900#16), (81, 3911#16)])) = true := by decide

/-- Vector B6: `n = 58`, temperature 5 is not all in the frame. -/
theorem test_shape3_truncated :
    nextWith (fun t => decide (t.bms.unit1.temp[0] = 0x09C4#16) && decide (t.bms.unit1.temp[3] = 0x00B3#16) &&
      decide (t.bms.unit1.temp[4] = 0x2D39#16) && decide (t.bms.unit1.temp[5] = 0#16))
      (finish (bmsFrame 50 5000#16 3#8 [(47, 0x09C4#16), (49, 0x09CE#16), (51, 0x09D8#16)])) = true := by decide

/-- `withFetchWord` places a sub-packet that the next step runs: with a zero sub-packet, all 112 keys (vector A1). -/
theorem test_withFetchWord_subPacket :
    nextWith (fun t => decide (t.phase = .idle) && decide (t.events = []) && decide (t.snap.map List.length = some 112))
      (step (State.reset.withFetchWord 8 0x05)) = true := by decide

-- Witnesses: for each statement with hypotheses, states and operands that meet all of them, at the boundary values of
-- its clauses

/-- Reset with these operations pending. -/
def issuing (ops : List HostInput) : State := { State.reset with host := ops }

/-- Idle with this marker history. -/
def idleAfter (p2 p1 : Byte) : State := { State.reset with prev2 := p2, prev1 := p1 }

/-- A machine that holds something in every element, collecting `f`. -/
def busy (f : Frame) : State :=
  { lastPending f with
    bms := { unit1 := { BmsUnit.zero with cur := 1#16 }, unit2 := BmsUnit.zero }
    snap := some [(.voltage, ⟨1, 100⟩)]
    diag := some ⟨1#32, 2#32⟩ }

theorem witness_StepRunsHostCommand :
    (issuing [.command 0x00FF#16, .reset]).host = .command 0x00FF#16 :: [.reset] ∧
    decodeCommand 0x00FF#16 = .ok (.push 0xFF#8) := by decide

/-- The words of vector H5, none of them in the map. -/
theorem witness_ReservedWordIsRefused :
    ∀ w ∈ [0x0300#16, 0x0101#16, 0x0201#16, 0x0400#16, 0xFFFF#16],
      (issuing [.command w]).host = .command w :: [] ∧
      ¬ (w &&& 0xFF00#16 = 0#16 ∨ w = 0x0100#16 ∨ w = 0x0200#16) := by
  intro w hw
  simp only [List.mem_cons, List.not_mem_nil, or_false] at hw
  rcases hw with rfl | rfl | rfl | rfl | rfl <;> exact ⟨rfl, by decide⟩

theorem witness_OnlyReservedWordsAreRefused :
    ∃ r, step (issuing [.command 0x0300#16]) = .refused r ∧ r = .reservedCommand 0x0300#16 .opField := by
  simpa using (refusedWith_iff (fun r => decide (r = .reservedCommand 0x0300#16 .opField)) _).mp
    (by decide : refusedWith _ (step (issuing [.command 0x0300#16])) = true)

theorem witness_ResetInputSetsEveryElement :
    ({ busy v1 with host := [.reset, .reset] } : State).host = .reset :: [.reset] := by decide

theorem witness_NoOperationChangesNothing : (busy v1).host = [] := by decide

theorem witness_StepTakesOneOperation :
    ∃ t, step (issuing [.command 0x0100#16, .reset]) = .next t ∧ t.host = [.reset] := by
  simpa using (nextWith_iff (fun t => decide (t.host = [.reset])) _).mp
    (by decide : nextWith _ (step (issuing [.command 0x0100#16, .reset])) = true)

theorem witness_PushCompletesMarker :
    (idleAfter 0xDC#8 0x5A#8).phase = .idle ∧ (idleAfter 0xDC#8 0x5A#8).prev1 = 0x5A#8 ∧
    (idleAfter 0xDC#8 0x5A#8).prev2 = 0xDC#8 := by decide

theorem witness_PushPartialMarker :
    (idleAfter 0#8 0xDC#8).phase = .idle ∧ (idleAfter 0#8 0xDC#8).prev1 = 0xDC#8 := by decide

/-- A last marker byte, and a middle one, each with a history that is not its own. -/
theorem witness_PushOtherByteInIdle :
    ∀ x ∈ [(0x5C#8, idleAfter 0#8 0x5A#8), (0x5A#8, idleAfter 0xDC#8 0x5A#8), (0xDC#8, idleAfter 0#8 0xDC#8)],
      x.2.phase = .idle ∧ ¬ (x.1 = 0x5C#8 ∧ x.2.prev1 = 0x5A#8 ∧ x.2.prev2 = 0xDC#8) ∧
      ¬ (x.1 = 0x5A#8 ∧ x.2.prev1 = 0xDC#8) := by decide

theorem witness_PushLengthByte : SyncInv afterMarker ∧ afterMarker.phase = .lengthPending := by decide

/-- The last byte that does not complete a frame of 43 bytes. -/
theorem witness_PushInsideFrameAppends :
    (lastPending (v1.take 42)).phase = .collecting ∧
    (lastPending (v1.take 42)).buf.length + 1 = 42 ∧
    (lastPending (v1.take 42)).buf.length + 1 ≠ (lastPending (v1.take 42)).len.toNat + 4 := by decide

/-- For CompletedFrameReturnsToIdle: `L = 0`, `L = 1` and `L = 255`. -/
theorem witness_Completes :
    Completes afterMarker 0#8 [0xDC#8, 0x5A#8, 0x5C#8, 0#8] ∧
    Completes (lastPending [0xDC#8, 0x5A#8, 0x5C#8, 1#8, 0xDC#8]) 0xDC#8 [0xDC#8, 0x5A#8, 0x5C#8, 1#8, 0xDC#8] ∧
    Completes (lastPending s13) 0#8 s13 := by
  refine ⟨?_, ?_, ?_⟩ <;> decide

/-- For EveryByteIsAccepted and NoStepFaults: a state in each phase. -/
theorem witness_SyncInv :
    SyncInv (idleAfter 0xDC#8 0x5A#8) ∧ SyncInv afterMarker ∧ SyncInv (lastPending (v1.take 5)) ∧
    SyncInv (lastPending s13) := by
  refine ⟨?_, ?_, ?_, ?_⟩ <;> decide

theorem witness_BytesOfUnfinishedFramesAreSilent :
    (SyncInv State.reset ∧ ∀ f, ¬ Completes State.reset 0x5C#8 f) ∧
    (SyncInv afterMarker ∧ ∀ f, ¬ Completes afterMarker 0xFF#8 f) ∧
    (SyncInv (lastPending (v1.take 42)) ∧ ∀ f, ¬ Completes (lastPending (v1.take 42)) 0xE7#8 f) := by
  refine ⟨⟨by decide, ?_⟩, ⟨by decide, ?_⟩, ⟨by decide, ?_⟩⟩
  all_goals
    rintro f ⟨_, hf, h⟩
    subst hf
    revert h
    decide

/-- `L = 38` and `L = 0`. -/
theorem witness_FrameBelowFloorIsDropped :
    (Completes (lastPending v3) 0#8 v3 ∧ lengthOf v3 = 38) ∧
    (Completes afterMarker 0#8 [0xDC#8, 0x5A#8, 0x5C#8, 0#8] ∧ lengthOf [0xDC#8, 0x5A#8, 0x5C#8, 0#8] ≤ 38) := by decide

/-- For MismatchedFrameIsRejected: vectors V2 (`L = 39`) and S13 (`L = 255`). -/
theorem witness_Rejected : Rejected (lastPending v2) 0x5E#8 v2 ∧ Rejected (lastPending s13) 0#8 s13 := by
  refine ⟨?_, ?_⟩ <;> decide

/-- For AcceptedFrameFields, AcceptedFrameGatedFields and PublicationForgetsOldSnapshot: vectors V1 (`n = 43`) and B10b
(`n = 47`), and F1 in a machine that has published. -/
theorem witness_Accepted :
    Accepted (lastPending v1) 0xA1#8 v1 ∧ Accepted (busy f1) 0xE4#8 f1 ∧ Accepted (lastPending b10b) 0x3A#8 b10b := by
  refine ⟨?_, ?_, ?_⟩ <;> decide

/-- The gate of the sub-packet: `mver` 4 and 5, `n` 46 and 47. -/
theorem witness_AcceptedFrameSubSteps :
    ¬ (5 ≤ mverAt f1 ∧ 46 < f1.length) ∧
    (Accepted (lastPending (bmsFrame 39 5000#16 0#8 [])) (lastByte (bmsFrame 39 5000#16 0#8 []))
        (bmsFrame 39 5000#16 0#8 []) ∧ (bmsFrame 39 5000#16 0#8 []).length = 47) ∧
    (Accepted (lastPending (bmsFrame 38 5000#16 0#8 [])) (lastByte (bmsFrame 38 5000#16 0#8 []))
        (bmsFrame 38 5000#16 0#8 []) ∧ (bmsFrame 38 5000#16 0#8 []).length = 46) := by
  refine ⟨by decide, ⟨?_, by decide⟩, ?_, by decide⟩ <;> decide

/-- Vector V5 (offset 20), the first byte of the payload region and the last of the trailer. -/
theorem witness_SingleByteChangeIsRejected :
    Accepted (lastPending v1) 0xA1#8 v1 ∧
    ∀ k ∈ [4, 20, 42], 4 ≤ k ∧ k < v1.length ∧ v1[k]? ≠ some 1#8 ∧
      Completes (lastPending (v1.set k 1#8)) (lastByte (v1.set k 1#8)) (v1.set k 1#8) := by
  refine ⟨by decide, ?_⟩
  intro k hk
  refine ⟨?_, ?_, ?_, ?_⟩ <;> revert k <;> decide

/-- Outcomes of the three kinds of push: a mismatch, a publication, neither. -/
theorem witness_PushChangesOneGroup :
    (∃ t, exec (.push 0x5E#8) (lastPending v2) = .next t ∧ t.diag ≠ none) ∧
    (∃ t, exec (.push 0xA1#8) (lastPending v1) = .next t ∧ t.snap ≠ none) ∧
    ∃ t, exec (.push 0#8) (lastPending v3) = .next t ∧ t.events = [] := by
  refine ⟨?_, ?_, ?_⟩
  · simpa using (nextWith_iff (fun t => decide (t.diag ≠ none)) _).mp
      (by decide : nextWith _ (exec (.push 0x5E#8) (lastPending v2)) = true)
  · simpa using (nextWith_iff (fun t => decide (t.snap ≠ none)) _).mp
      (by decide : nextWith _ (exec (.push 0xA1#8) (lastPending v1)) = true)
  · simpa using (nextWith_iff (fun t => decide (t.events = [])) _).mp
      (by decide : nextWith _ (exec (.push 0#8) (lastPending v3)) = true)

/-- Frames of each length about the four gates. -/
theorem witness_GatedFieldsFollowTheirGates :
    ∀ n ∈ [28, 29, 30, 31, 32, 33, 34, 35, 36], ∃ sample, extract (zeros n) = some (sample, 0) := by
  intro n hn
  have h : (extract (zeros n)).map Prod.snd = some 0 := by revert n; decide
  cases he : extract (zeros n) with
  | none => simp [he] at h
  | some x => exact ⟨x.1, by simp [he] at h; rw [← h]⟩

/-- An absent version; raw values 0, 1, 32767 and 32768. -/
theorem witness_MajorVersionOfSample :
    ([] : Snapshot).lookup .version = none ∧
    ∀ r ∈ [(0 : Int), 1, 32767, 32768], ([(.version, ⟨r, 1000⟩)] : Snapshot).lookup .version = some ⟨r, 1000⟩ := by
  decide

/-- `n = 72` and `n = 73`. -/
theorem witness_Shape0WritesBothCurrents :
    (bufWith 72 []).buf.length ≤ 72 ∧ 72 < (bufWith 73 []).buf.length := by decide

/-- Both units, and a frame in which one element is whole and the next is not. -/
theorem witness_Shape1WritesCells0To14 :
    (UnitId.one = if (0#6 : BitVec 6) = 0#6 then UnitId.one else UnitId.two) ∧
    (UnitId.two = if (63#6 : BitVec 6) = 0#6 then UnitId.one else UnitId.two) ∧
    (53 + 2 * 0) + 2 ≤ (bufWith 55 []).buf.length ∧ ¬ (53 + 2 * 1) + 2 ≤ (bufWith 55 []).buf.length := by decide

/-- As for shape 1. -/
theorem witness_Shape2WritesCells15To29 :
    (UnitId.one = if (0#6 : BitVec 6) = 0#6 then UnitId.one else UnitId.two) ∧
    (53 + 2 * (29 - 15)) + 2 ≤ (bufWith 83 []).buf.length ∧
    ¬ (53 + 2 * (29 - 15)) + 2 ≤ (bufWith 82 []).buf.length := by decide

/-- The gate of the temperatures, `n = 57` and `n = 58`, and the last cell. -/
theorem witness_Shape3WritesCells30To41AndTemps :
    (UnitId.one = if (0#6 : BitVec 6) = 0#6 then UnitId.one else UnitId.two) ∧
    ¬ 57 < (bufWith 57 []).buf.length ∧ 57 < (bufWith 58 []).buf.length ∧
    (59 + 2 * (41 - 30)) + 2 ≤ (bufWith 83 []).buf.length := by decide

theorem witness_ThreeShapesFillAUnit : 83 ≤ (zeros 83).length := by decide

theorem witness_AccumulatorRunsDecodedSubPacket :
    (bufWith 47 []).buf[46]? = some 0#8 ∧ (lastPending (bmsFrame 52 5000#16 255#8 [])).buf[46]? = some 255#8 := by decide

/-- The reset input, and an accepted frame. -/
theorem witness_SlotsChangeOnlyBySubPacketOrReset :
    (∃ t, step { busy v1 with host := [.reset] } = .next t ∧ t.bms ≠ (busy v1).bms) ∧
    SyncInv (State.reset.withFetchWord 8 0x02) ∧
    ∃ t, step ((busy v1).withFetchWord 8 0x00) = .next t ∧ t.bms ≠ ((busy v1).withFetchWord 8 0x00).bms := by
  refine ⟨?_, by decide, ?_⟩
  · simpa using (nextWith_iff (fun t => decide (t.bms ≠ (busy v1).bms)) _).mp
      (by decide : nextWith _ (step { busy v1 with host := [.reset] }) = true)
  · simpa using (nextWith_iff (fun t => decide (t.bms ≠ ((busy v1).withFetchWord 8 0x00).bms)) _).mp
      (by decide : nextWith _ (step ((busy v1).withFetchWord 8 0x00)) = true)

/-- For PerSlotEntriesAreExposed, NoBmsKeyBelowVersion5 and SnapshotKeyCounts: raw versions 4999 and 5000. -/
theorem witness_versionGate :
    (Accepted (lastPending (bmsFrame 35 4999#16 0#8 [])) (lastByte (bmsFrame 35 4999#16 0#8 []))
        (bmsFrame 35 4999#16 0#8 []) ∧ mverAt (bmsFrame 35 4999#16 0#8 []) < 5) ∧
    (Accepted (lastPending b10b) 0x3A#8 b10b ∧ 5 ≤ mverAt b10b) := by
  refine ⟨⟨?_, by decide⟩, ?_, by decide⟩ <;> decide

/-- Vector B8: unit 1 has valid cells, unit 2 none. -/
theorem witness_SummariesOverValidCells :
    ∃ t, finish (bmsFrame 52 5000#16 1#8 [(53, 0x0FA0#16)]) = .next t ∧
      validCellsAt (bmsUnit t.bms .one) = [4000, 17, 10018] ∧ validCellsAt (bmsUnit t.bms .two) = [] := by
  obtain ⟨t, ht, hv⟩ := (nextWith_iff (fun t => decide (validCellsAt (bmsUnit t.bms .one) = [4000, 17, 10018] ∧
      validCellsAt (bmsUnit t.bms .two) = [])) (finish (bmsFrame 52 5000#16 1#8 [(53, 0x0FA0#16)]))).mp (by decide)
  exact ⟨t, ht, of_decide_eq_true hv⟩

/-- A chunk that ends in an accepted frame. -/
theorem witness_SnapshotNeverInfluencesDecoding :
    ∃ t, pushChunk [0xA1#8] (lastPending v1) = .next t ∧ t.snap ≠ none := by
  simpa using (nextWith_iff (fun t => decide (t.snap ≠ none)) _).mp
    (by decide : nextWith _ (pushChunk [0xA1#8] (lastPending v1)) = true)

/-- The reset input, `CLEAR`, and an accepted frame. -/
theorem witness_SnapshotChangesOnlyByFrameClearOrReset :
    (∃ t, step { busy v1 with host := [.reset] } = .next t ∧ t.snap ≠ (busy v1).snap) ∧
    (∃ t, step { busy v1 with host := [.command 0x0200#16] } = .next t ∧ t.snap ≠ (busy v1).snap) ∧
    (∃ t, step { busy v1 with host := [pushWord 0xA1#8] } = .next t ∧ t.snap ≠ (busy v1).snap) ∧
    SyncInv (busy v1) := by
  refine ⟨?_, ?_, ?_, by decide⟩
  · simpa using (nextWith_iff (fun t => decide (t.snap ≠ (busy v1).snap)) _).mp
      (by decide : nextWith _ (step { busy v1 with host := [.reset] }) = true)
  · simpa using (nextWith_iff (fun t => decide (t.snap ≠ (busy v1).snap)) _).mp
      (by decide : nextWith _ (step { busy v1 with host := [.command 0x0200#16] }) = true)
  · simpa using (nextWith_iff (fun t => decide (t.snap ≠ (busy v1).snap)) _).mp
      (by decide : nextWith _ (step { busy v1 with host := [pushWord 0xA1#8] }) = true)

/-- The reset input, and a mismatch. -/
theorem witness_DiagChangesOnlyByMismatchOrReset :
    (∃ t, step { busy v2 with host := [.reset] } = .next t ∧ t.diag ≠ (busy v2).diag) ∧
    ∃ t, step { busy v2 with host := [pushWord 0x5E#8] } = .next t ∧ t.diag ≠ (busy v2).diag := by
  refine ⟨?_, ?_⟩
  · simpa using (nextWith_iff (fun t => decide (t.diag ≠ (busy v2).diag)) _).mp
      (by decide : nextWith _ (step { busy v2 with host := [.reset] }) = true)
  · simpa using (nextWith_iff (fun t => decide (t.diag ≠ (busy v2).diag)) _).mp
      (by decide : nextWith _ (step { busy v2 with host := [pushWord 0x5E#8] }) = true)

/-- `L = 0`, and `L = 255` with its last `k`. -/
theorem witness_LengthDrivenTermination :
    SyncInv afterMarker ∧ afterMarker.phase = .lengthPending ∧ (zeros 0).length = (0#8).toNat ∧
    (zeros 255).length = (255#8).toNat ∧ 254 < (255#8).toNat := by decide

theorem witness_RecoveryWithin256Bytes :
    SyncInv (lastPending [0xDC#8, 0x5A#8, 0x5C#8, 255#8, 0#8]) ∧ (zeros 256).length = 256 := by decide

/-- No marker before the end: a run that is not one, and one that overlaps itself (vector S4). -/
theorem witness_MarkerIsFoundAtFirstOccurrence :
    State.reset.phase = .idle ∧ State.reset.buf = [] ∧ State.reset.prev1 = 0#8 ∧ State.reset.prev2 = 0#8 ∧
    hasMarker [0xDC#8, 0x5A#8, 0x5A#8, 0x5C#8] = false ∧ hasMarker ([] ++ [0xDC#8, 0x5A#8]) = false ∧
    hasMarker ([0xDC#8] ++ [0xDC#8, 0x5A#8]) = false ∧ hasMarker [0#8, 0xDC#8, 0x5A#8, 0x5C#8] = true := by decide

/-- Also for AssembledBadFrameIsRejected: the shortest and the longest payload region, in Idle with a marker half
seen. -/
theorem witness_AssembledFrameIsAccepted :
    (idleAfter 0xDC#8 0x5A#8).phase = .idle ∧ (idleAfter 0xDC#8 0x5A#8).buf = [] ∧
    ∀ m ∈ [35, 251], 35 ≤ (zeros m).length ∧ (zeros m).length ≤ 251 := by decide

/-- A state with every part of the invariant in use, and its next state. -/
theorem witness_StepKeepsInvariant :
    MachineInv { busy v2 with host := [pushWord 0x5E#8] } ∧
    ∃ t, step { busy v2 with host := [pushWord 0x5E#8] } = .next t ∧ t.events.length = 1 := by
  refine ⟨⟨by decide, by decide, ⟨by decide, by decide⟩, by decide⟩, ?_⟩
  simpa using (nextWith_iff (fun t => decide (t.events.length = 1)) _).mp
    (by decide : nextWith _ (step { busy v2 with host := [pushWord 0x5E#8] }) = true)

/-- A state reached by a step. -/
theorem witness_ReachableStatesAreSynchronized : ∃ t, t.prev1 = 0xDC#8 ∧ Reachable t := by
  obtain ⟨t, ht, hp⟩ := (nextWith_iff (fun t => decide (t.prev1 = 0xDC#8)) (step (issuing [pushWord 0xDC#8]))).mp
    (by decide)
  exact ⟨t, by simpa using hp, .step _ _ (.reset [pushWord 0xDC#8]) ht⟩

end Sys2Proof.Tests
end

section
/-! PROOF. The command words and the sub-packet index as arithmetic on their numbers (spec/30_encoding.md R47, R50 to
R52): what each field holds, which words are legal, and what the decoder answers on each kind of word. Then: no
instruction's meaning is refused, so a refused step is a reserved word's. -/

namespace Sys2Proof

/-! The fields (R50, R47). -/

variable (w : Half) (p : Byte)

@[simp] theorem fieldZ_toNat : (fieldZ w).toNat = w.toNat / 1024 := by
  simp only [fieldZ, BitVec.extractLsb'_toNat, Nat.shiftRight_eq_div_pow]
  omega

@[simp] theorem fieldOp_toNat : (fieldOp w).toNat = w.toNat / 256 % 4 := by
  simp only [fieldOp, BitVec.extractLsb'_toNat, Nat.shiftRight_eq_div_pow]

@[simp] theorem fieldData_toNat : (fieldData w).toNat = w.toNat % 256 := by
  simp only [fieldData, BitVec.extractLsb'_toNat, Nat.shiftRight_zero]

@[simp] theorem pnumUnitField_toNat : (pnumUnitField p).toNat = p.toNat / 4 := by
  simp only [pnumUnitField, BitVec.extractLsb'_toNat, Nat.shiftRight_eq_div_pow]
  omega

@[simp] theorem pnumShape_toNat : (pnumShape p).toNat = p.toNat % 4 := by
  simp only [pnumShape, BitVec.extractLsb'_toNat, Nat.shiftRight_zero]

/-! The sub-packet index (R47). -/

/-- The unit field names the unit that R47's formula gives the whole byte. -/
theorem unitOfField_pnumUnitField :
    unitOfField (pnumUnitField p) = if p.toNat < 4 then UnitId.one else UnitId.two := by
  have hzero : pnumUnitField p = 0#6 ↔ p.toNat < 4 := by
    rw [← BitVec.toNat_inj, pnumUnitField_toNat]
    exact Nat.div_eq_zero_iff_lt (by decide)
  simp only [Machine.unitOfField_eq, hzero]

/-- The row is `pnum mod 4`, the operand the unit field. -/
theorem decodePnum_eq_of_mod :
    decodePnum p =
      if p.toNat % 4 = 0 then Instr.bmsShape0Currents (pnumUnitField p)
      else if p.toNat % 4 = 1 then Instr.bmsShape1Cells0To14 (pnumUnitField p)
      else if p.toNat % 4 = 2 then Instr.bmsShape2Cells15To29 (pnumUnitField p)
      else Instr.bmsShape3Cells30To41Temps (pnumUnitField p) := by
  simp only [decodePnum, ← BitVec.toNat_inj, pnumShape_toNat, BitVec.toNat_ofNat, Nat.reducePow, Nat.reduceMod]

/-! The masks of the opcode map (R51). -/

/-- The mask of `QUERY` and `CLEAR` keeps the whole word. -/
@[simp] theorem and_queryMask : w &&& 0xFFFF#16 = w := BitVec.and_allOnes

/-- The mask of `PUSH` keeps the upper byte: it leaves 0 exactly in the words below 256. -/
theorem and_pushMask_eq_zero_iff : w &&& 0xFF00#16 = 0x0000#16 ↔ w.toNat < 256 := by
  have hmask : w &&& 0xFF00#16 = (w >>> 8) <<< 8 :=
    (BitVec.shiftLeft_ushiftRight (x := w) (n := 8)).symm
  rw [hmask, ← BitVec.toNat_inj, BitVec.toNat_shiftLeft, BitVec.toNat_ushiftRight, Nat.shiftRight_eq_div_pow,
    Nat.shiftLeft_eq, BitVec.toNat_ofNat]
  omega

/-! The command words (R51, R52). -/

/-- A word of the opcode map, by the match and mask of `PUSH`'s row and the two other words (R51). -/
def LegalWord (w : Half) : Prop := w &&& 0xFF00#16 = 0x0000#16 ∨ w = 0x0100#16 ∨ w = 0x0200#16

/-- A word of one of R52's three kinds: `z != 0`, `op = 11`, or `op` of `QUERY` or `CLEAR` with `data != 0`. -/
def ReservedWord (w : Half) : Prop :=
  w.toNat / 1024 ≠ 0 ∨ w.toNat / 256 % 4 = 3 ∨
    (w.toNat / 256 % 4 = 1 ∨ w.toNat / 256 % 4 = 2) ∧ w.toNat % 256 ≠ 0

theorem legalWord_iff_toNat : LegalWord w ↔ w.toNat < 256 ∨ w.toNat = 256 ∨ w.toNat = 512 := by
  rw [LegalWord, and_pushMask_eq_zero_iff, ← BitVec.toNat_inj, ← BitVec.toNat_inj]
  rfl

/-- The reserved words are exactly the words outside the map (R52). -/
theorem not_legalWord_iff_reservedWord : ¬ LegalWord w ↔ ReservedWord w := by
  rw [legalWord_iff_toNat, ReservedWord]
  omega

/-- The decoder as a case on numbers. -/
theorem decodeCommand_eq :
    decodeCommand w =
      if w.toNat / 1024 ≠ 0 then .error .zField
      else if w.toNat / 256 % 4 = 0 then .ok (.push (fieldData w))
      else if w.toNat / 256 % 4 = 3 then .error .opField
      else if w.toNat % 256 ≠ 0 then .error .dataField
      else if w.toNat / 256 % 4 = 1 then .ok .query
      else .ok .clear := by
  simp only [decodeCommand, ne_eq, ← BitVec.toNat_inj, fieldZ_toNat, fieldOp_toNat, fieldData_toNat,
    BitVec.toNat_ofNat, Nat.reducePow, Nat.reduceMod]

variable {w}

/-- A word below 256 is a `PUSH` of its low byte (R51). -/
theorem decodeCommand_of_lt (hlt : w.toNat < 256) : decodeCommand w = .ok (.push (fieldData w)) := by
  rw [decodeCommand_eq, if_neg (by omega), if_pos (by omega)]

/-- A reserved word has a reason: the decoder's `.ok` branches hold none of R52's kinds. -/
theorem decodeCommand_of_reservedWord (hreserved : ReservedWord w) : ∃ why, decodeCommand w = .error why := by
  rw [ReservedWord] at hreserved
  rw [decodeCommand_eq]
  split
  next => exact ⟨.zField, rfl⟩
  split
  next => omega
  split
  next => exact ⟨.opField, rfl⟩
  split
  next => exact ⟨.dataField, rfl⟩
  omega

variable (w)

/-- Everything the decoder can answer on a command word (R51, R52). -/
theorem decodeCommand_cases :
    (w.toNat < 256 ∧ decodeCommand w = .ok (.push (fieldData w))) ∨
    (w = 0x0100#16 ∧ decodeCommand w = .ok .query) ∨
    (w = 0x0200#16 ∧ decodeCommand w = .ok .clear) ∨
    (¬ LegalWord w ∧ ∃ why, decodeCommand w = .error why) := by
  by_cases hlegal : LegalWord w
  · rcases hlegal with hpush | rfl | rfl
    · have hlt := (and_pushMask_eq_zero_iff w).mp hpush
      exact .inl ⟨hlt, decodeCommand_of_lt hlt⟩
    · exact .inr (.inl ⟨rfl, by decide⟩)
    · exact .inr (.inr (.inl ⟨rfl, by decide⟩))
  · have hreserved := (not_legalWord_iff_reservedWord w).mp hlegal
    exact .inr (.inr (.inr ⟨hlegal, decodeCommand_of_reservedWord hreserved⟩))

/-- `PUSH b` is decoded from a word below 256 with low byte `b` and from nothing else. -/
theorem decodeCommand_eq_push_iff (b : Byte) :
    decodeCommand w = .ok (.push b) ↔ w.toNat < 256 ∧ fieldData w = b := by
  constructor
  · intro h
    rcases decodeCommand_cases w with ⟨hlt, hd⟩ | ⟨-, hd⟩ | ⟨-, hd⟩ | ⟨-, why, hd⟩ <;> cases hd.symm.trans h
    exact ⟨hlt, rfl⟩
  · rintro ⟨hlt, rfl⟩
    exact decodeCommand_of_lt hlt

theorem decodeCommand_eq_query_iff : decodeCommand w = .ok .query ↔ w = 0x0100#16 := by
  constructor
  · intro h
    rcases decodeCommand_cases w with ⟨-, hd⟩ | ⟨hw, hd⟩ | ⟨-, hd⟩ | ⟨-, why, hd⟩ <;> cases hd.symm.trans h
    exact hw
  · rintro rfl
    decide

theorem decodeCommand_eq_clear_iff : decodeCommand w = .ok .clear ↔ w = 0x0200#16 := by
  constructor
  · intro h
    rcases decodeCommand_cases w with ⟨-, hd⟩ | ⟨-, hd⟩ | ⟨hw, hd⟩ | ⟨-, why, hd⟩ <;> cases hd.symm.trans h
    exact hw
  · rintro rfl
    decide

/-- The words with a reason are those outside the map (R52). -/
theorem decodeCommand_error_iff : (∃ why, decodeCommand w = .error why) ↔ ¬ LegalWord w := by
  constructor
  · rintro ⟨why, h⟩ hlegal
    rcases decodeCommand_cases w with ⟨-, hd⟩ | ⟨-, hd⟩ | ⟨-, hd⟩ | ⟨hnot, -⟩
    case inr.inr.inr => exact hnot hlegal
    all_goals cases hd.symm.trans h
  · intro hnot
    exact decodeCommand_of_reservedWord ((not_legalWord_iff_reservedWord w).mp hnot)

/-- The words that decode are those of the map (R51). -/
theorem decodeCommand_ok_iff : (∃ i, decodeCommand w = .ok i) ↔ LegalWord w := by
  rw [← not_iff_not, ← decodeCommand_error_iff]
  cases decodeCommand w <;> simp

end Sys2Proof

namespace Sys2Proof.Machine

variable (s : State)

/-! No operation is refused: a refusal comes from `step` alone (R52, R115). -/

theorem runSubPacket_ne_refused (i : Instr) (r : Refusal) : runSubPacket i s ≠ .refused r := by
  obtain ⟨m, hm⟩ := runSubPacket_next i s
  simp [hm]

theorem bmsSubStep_ne_refused (mver : Nat) (r : Refusal) : bmsSubStep mver s ≠ .refused r := by
  rw [bmsSubStep]
  split
  · intro h
    obtain ⟨p, -, hp⟩ := withRead_eq_refused.mp h
    exact runSubPacket_ne_refused s _ r hp
  · exact nofun

theorem accept_ne_refused (r : Refusal) : accept s ≠ .refused r := by
  intro h
  obtain ⟨x, -, hx⟩ := withRead_eq_refused.mp h
  rcases andThen_eq_refused.mp hx with hsub | ⟨u, -, hpublish⟩
  · exact bmsSubStep_ne_refused s _ r hsub
  · cases hpublish

theorem crcCheck_ne_refused (l : Byte) (r : Refusal) : crcCheck l s ≠ .refused r := by
  intro h
  obtain ⟨c, -, hc⟩ := withRead_eq_refused.mp h
  split at hc
  · exact accept_ne_refused s r hc
  · cases hc

theorem frameDone_ne_refused (r : Refusal) : frameDone s ≠ .refused r := by
  intro h
  obtain ⟨l, -, hl⟩ := withRead_eq_refused.mp h
  split at hl
  · cases hl
  · exact crcCheck_ne_refused s l r hl

theorem completeCheck_ne_refused (r : Refusal) : completeCheck s ≠ .refused r := by
  rw [completeCheck]
  split
  · intro h
    rcases andThen_eq_refused.mp h with hdone | ⟨u, -, hidle⟩
    · exact frameDone_ne_refused s r hdone
    · cases hidle
  · exact nofun

theorem pushByte_ne_refused (b : Byte) (r : Refusal) : pushByte b s ≠ .refused r := by
  rw [pushByte]
  split
  · exact nofun
  · exact completeCheck_ne_refused _ r
  · exact completeCheck_ne_refused _ r

/-- An instruction's meaning is never a refusal. -/
theorem exec_ne_refused (i : Instr) (r : Refusal) : exec i s ≠ .refused r := by
  cases i with
  | push b => exact pushByte_ne_refused _ b r
  | query => exact nofun
  | clear => exact nofun
  | bmsShape0Currents u => exact runSubPacket_ne_refused s (.bmsShape0Currents u) r
  | bmsShape1Cells0To14 u => exact runSubPacket_ne_refused s (.bmsShape1Cells0To14 u) r
  | bmsShape2Cells15To29 u => exact runSubPacket_ne_refused s (.bmsShape2Cells15To29 u) r
  | bmsShape3Cells30To41Temps u => exact runSubPacket_ne_refused s (.bmsShape3Cells30To41Temps u) r

/-! A step with a command word pending (R106, R52). -/

variable {s} {w : Half} {rest : List HostInput}

theorem step_of_decodeCommand_ok {i : Instr} (hhost : s.host = .command w :: rest) (hdecode : decodeCommand w = .ok i) :
    step s = exec i { s with host := rest } := by
  simp only [step, fetch, hhost, hdecode]

theorem step_of_decodeCommand_error {why : Reserved} (hhost : s.host = .command w :: rest)
    (hdecode : decodeCommand w = .error why) : step s = .refused (.reservedCommand w why) := by
  simp only [step, fetch, hhost, hdecode]

/-- The step is refused exactly where the decoder gives a reason. -/
theorem step_reservedCommand_iff {why : Reserved} (hhost : s.host = .command w :: rest) :
    step s = .refused (.reservedCommand w why) ↔ decodeCommand w = .error why := by
  cases hdecode : decodeCommand w with
  | ok i =>
    rw [step_of_decodeCommand_ok hhost hdecode]
    exact iff_of_false (exec_ne_refused _ i _) nofun
  | error reason =>
    rw [step_of_decodeCommand_error hhost hdecode]
    simp

end Sys2Proof.Machine

namespace Sys2Proof.Proofs

open Sys2Proof.Machine

/-- Settles O2, row by row: what decodes to the row, and the row's mask as arithmetic. -/
theorem legalCommandWordsAreTheMap : Obligations.LegalCommandWordsAreTheMap := by
  intro w
  refine ⟨fun b => ?_, ?_, ?_, decodeCommand_ok_iff w⟩
  · rw [decodeCommand_eq_push_iff, and_pushMask_eq_zero_iff, ← BitVec.toNat_inj, fieldData_toNat,
      eq_comm (a := b.toNat)]
  · rw [decodeCommand_eq_query_iff, and_queryMask]
  · rw [decodeCommand_eq_clear_iff, and_queryMask]

/-- Settles O6: a refusal is the decoder's, and the decoder errs exactly outside the map. -/
theorem reservedWordIsRefused : Obligations.ReservedWordIsRefused := by
  intro s w rest hhost
  refine ⟨?_, not_legalWord_iff_reservedWord w⟩
  simp only [step_reservedCommand_iff hhost]
  exact decodeCommand_error_iff w

/-- Settles O4: the operand is the unit field of the index. -/
theorem pnumSelectsShapeAndUnit : Obligations.PnumSelectsShapeAndUnit :=
  fun p => ⟨pnumUnitField p, unitOfField_pnumUnitField p, decodePnum_eq_of_mod p⟩

end Sys2Proof.Proofs
end

section
/-! PROOF. The synchronizer's rules (spec/41_synchronizer.md R62 to R65): what a `PUSH` runs in each phase, which rule
a byte in Idle meets, and what the completion test answers on a state it is given. -/

namespace Sys2Proof.Machine

variable {s : State} {b : Byte}

/-! `PUSH` by phase (R107). -/

theorem exec_push (b : Byte) (s : State) : exec (.push b) s = pushByte b (clearOutputs s) := rfl

theorem exec_push_of_idle (hphase : s.phase = .idle) : exec (.push b) s = .next (pushIdle b (clearOutputs s)) := by
  simp only [exec_push, pushByte, clearOutputs_phase, hphase]

theorem exec_push_of_lengthPending (hphase : s.phase = .lengthPending) :
    exec (.push b) s = pushLength b (clearOutputs s) := by
  simp only [exec_push, pushByte, clearOutputs_phase, hphase]

/-! A byte in Idle, where the rule it meets is known (`pushIdle_cases` reads the rule off the answer). -/

theorem pushIdle_of_marker (hprev1 : s.prev1 = 0x5A#8) (hprev2 : s.prev2 = 0xDC#8) :
    pushIdle 0x5C#8 s = startFrame s :=
  if_pos ⟨rfl, hprev1, hprev2⟩

/-- R63's byte is not R62's, so the order of the rules does not matter here. -/
theorem pushIdle_of_partialMarker (hprev1 : s.prev1 = 0xDC#8) : pushIdle 0x5A#8 s = setHistory 0x5A#8 0xDC#8 s := by
  have hnot : ¬ (0x5A#8 = 0x5C#8 ∧ s.prev1 = 0x5A#8 ∧ s.prev2 = 0xDC#8) := fun h => absurd h.1 (by decide)
  rw [pushIdle, if_neg hnot, if_pos ⟨rfl, hprev1⟩]

theorem pushIdle_of_other (hmarker : ¬ (b = 0x5C#8 ∧ s.prev1 = 0x5A#8 ∧ s.prev2 = 0xDC#8))
    (hpartial : ¬ (b = 0x5A#8 ∧ s.prev1 = 0xDC#8)) : pushIdle b s = setHistory b 0#8 s := by
  rw [pushIdle, if_neg hmarker, if_neg hpartial]

/-! The completion test (R67) and the floor (R69). -/

theorem completeCheck_of_incomplete (hlen : s.buf.length ≠ s.len.toNat + 4) : completeCheck s = .next s :=
  if_neg fun h => hlen ((frameComplete_iff s).mp h)

theorem completeCheck_of_complete (hlen : s.buf.length = s.len.toNat + 4) :
    completeCheck s = andThen (frameDone s) fun t => .next (toIdle t) :=
  if_pos ((frameComplete_iff s).mpr hlen)

/-- A frame below the floor leaves the state to the synchronizer as it is (R69). -/
theorem frameDone_of_belowFloor {l : Byte} (hread : readU8 s.buf 3 = some l) (hfloor : l.toNat ≤ 38) :
    frameDone s = .next s := by
  rw [frameDone, Config.lengthOffset, hread, withRead_some, if_pos ((belowFloor_iff l).mpr hfloor)]

/-! The length byte (R65), on a buffer that holds the marker (R19). -/

/-- `L = 0`: the header alone has `L + 4` bytes, and the frame it completes is below the floor. -/
theorem pushLength_zero (hbuf : s.buf = Config.marker) :
    pushLength 0#8 s = .next { s with phase := .idle, buf := [], len := 0#8 } := by
  rw [pushLength, completeCheck_of_complete (by simp [hbuf, Config.marker]),
    frameDone_of_belowFloor (l := 0#8) (by simp [hbuf, Config.marker, readU8]) (by decide)]
  rfl

/-- `L > 0`: the header is shorter than `L + 4` bytes. -/
theorem pushLength_of_ne_zero (hbuf : s.buf = Config.marker) (hb : b ≠ 0#8) :
    pushLength b s = .next { s with phase := .collecting, buf := Config.marker ++ [b], len := b } := by
  have hpos : b.toNat ≠ 0 := fun h => hb (BitVec.eq_of_toNat_eq h)
  rw [pushLength, completeCheck_of_incomplete (by simpa [hbuf, Config.marker] using hpos), ← hbuf]
  rfl

end Sys2Proof.Machine

namespace Sys2Proof.Proofs

open Sys2Proof.Machine

/-- Settles O18: of the length bytes only 0 meets the completion test. -/
theorem pushLengthByte : Obligations.PushLengthByte := by
  intro s b hinv hphase
  obtain ⟨-, hpending, -⟩ := hinv
  obtain ⟨hbuf, -, -⟩ := hpending hphase
  rw [exec_push_of_lengthPending hphase]
  by_cases hb : b = 0#8
  · rw [if_pos hb, hb]
    exact pushLength_zero hbuf
  · rw [if_neg hb]
    exact pushLength_of_ne_zero hbuf hb

/-- Settles O15: the marker rule, with the outputs cleared. -/
theorem pushCompletesMarker : Obligations.PushCompletesMarker := by
  intro s hphase hprev1 hprev2
  rw [exec_push_of_idle hphase, pushIdle_of_marker (s := clearOutputs s) hprev1 hprev2]
  rfl

/-- Settles O16: the partial-marker rule, with the outputs cleared. -/
theorem pushPartialMarker : Obligations.PushPartialMarker := by
  intro s hphase hprev1
  rw [exec_push_of_idle hphase, pushIdle_of_partialMarker (s := clearOutputs s) hprev1]
  rfl

/-- Settles O17: the rule left over when neither marker rule applies, with the outputs cleared. -/
theorem pushOtherByteInIdle : Obligations.PushOtherByteInIdle := by
  intro s b hphase hmarker hpartial
  rw [exec_push_of_idle hphase, pushIdle_of_other (s := clearOutputs s) hmarker hpartial]
  rfl

end Sys2Proof.Proofs
end

section
/-! PROOF. The validator's rules (spec/42_validator.md R69 to R72): the state in which a completed frame is judged,
what the floor, the checksum and the acceptance answer on it, and the sub-packet instruction as a function of frame and
slots. -/

namespace Sys2Proof.Machine

variable {s : State} {b : Byte} {f : Frame}

/-! A completed frame (R65 to R67): its length byte and length, and the state the validator finds. -/

/-- A byte appended behind the length byte leaves the length byte. -/
theorem lengthByte_append {l : Byte} (h : f[3]? = some l) : lengthByte (f ++ [b]) = l := by
  obtain ⟨hlt, -⟩ := List.getElem?_eq_some_iff.mp h
  rw [lengthByte, List.getD_eq_getElem?_getD, List.getElem?_append_left hlt, h, Option.getD_some]

/-- A completed frame has `L + 4` bytes. -/
theorem Completes.length_eq (h : Completes s b f) : f.length = lengthOf f + 4 := by
  obtain ⟨⟨-, hpending, hcollecting⟩, rfl, ⟨hphase, hlength⟩ | ⟨hphase, rfl⟩⟩ := h
  · obtain ⟨-, -, hlen, -⟩ := hcollecting hphase
    rw [hlength, lengthOf, lengthByte_append hlen]
  · obtain ⟨hbuf, -⟩ := hpending hphase
    rw [hbuf]
    rfl

/-- The two ways to complete a frame: its last collected byte, or a length byte 0. -/
theorem Completes.phase_cases (h : Completes s b f) :
    s.phase = .collecting ∧ s.len = lengthByte f ∨
    s.phase = .lengthPending ∧ b = lengthByte f ∧ lengthByte f = 0#8 := by
  obtain ⟨⟨-, hpending, hcollecting⟩, rfl, ⟨hphase, -⟩ | ⟨hphase, rfl⟩⟩ := h
  · obtain ⟨-, -, hlen, -⟩ := hcollecting hphase
    exact .inl ⟨hphase, (lengthByte_append hlen).symm⟩
  · obtain ⟨hbuf, -⟩ := hpending hphase
    rw [hbuf]
    exact .inr ⟨hphase, rfl, rfl⟩

/-- A frame above the floor is completed while collecting, so its length byte is already in `len`. -/
theorem Completes.len_eq (h : Completes s b f) (hfloor : 38 < lengthOf f) : s.len = lengthByte f := by
  obtain ⟨-, hlen⟩ | ⟨-, -, hzero⟩ := h.phase_cases
  · exact hlen
  · simp [lengthOf, hzero] at hfloor

theorem Completes.readU8_length (h : Completes s b f) : readU8 f 3 = some (lengthByte f) :=
  readU8_of_lt (by rw [h.length_eq]; omega)

/-- The trailer lies inside the frame, at offset `L` (R70). -/
theorem Completes.readU32_trailer (h : Completes s b f) :
    readU32 f (lengthOf f) = some (BitVec.ofNat 32 (u32At f (lengthOf f))) :=
  readU32_of_le h.length_eq.ge

/-- The state in which the validator judges the frame `f`, outputs cleared and `f` in the buffer. -/
def collected (f : Frame) (s : State) : State :=
  { clearOutputs s with phase := .collecting, buf := f, len := lengthByte f }

@[simp] theorem collected_buf : (collected f s).buf = f := rfl
@[simp] theorem collected_bms : (collected f s).bms = s.bms := rfl

theorem exec_push_of_collecting (hphase : s.phase = .collecting) :
    exec (.push b) s = pushCollect b (clearOutputs s) := by
  rw [exec_push, pushByte, clearOutputs_phase, hphase]

/-- The completing push appends its byte and runs the completion test, whichever phase it comes in. -/
theorem Completes.exec_push_eq_completeCheck (h : Completes s b f) :
    exec (.push b) s = completeCheck (collected f s) := by
  have ⟨_, hf, _⟩ := h
  obtain ⟨hphase, hlen⟩ | ⟨hphase, hlen, -⟩ := h.phase_cases
  · have happend : appendByte b (clearOutputs s) = collected f s := by
      rw [collected, ← hphase, ← hlen, hf]
      rfl
    rw [exec_push_of_collecting hphase, pushCollect, happend]
  · rw [exec_push_of_lengthPending hphase, pushLength, collected, ← hlen, hf]
    rfl

/-- The completing push is the validator on that state, then the return to Idle (R67). -/
theorem Completes.exec_push (h : Completes s b f) :
    exec (.push b) s = andThen (frameDone (collected f s)) fun t => .next (toIdle t) := by
  rw [h.exec_push_eq_completeCheck, completeCheck_of_complete h.length_eq]

/-! Above the floor: the checksum decides (R69, R70). -/

/-- The trailer as a word equals the checksum where their numbers do. -/
theorem eq_ofNat_u32At_iff (c : Word) (f : Frame) (o : Nat) :
    c = BitVec.ofNat 32 (u32At f o) ↔ c.toNat = u32At f o := by
  rw [← BitVec.toNat_inj, BitVec.toNat_ofNat, Nat.mod_eq_of_lt (u32At_lt f o)]

theorem frameDone_of_aboveFloor {l : Byte} (hread : readU8 s.buf 3 = some l) (hfloor : 38 < l.toNat) :
    frameDone s = crcCheck l s := by
  have hnot : ¬ belowFloor l = true := by rw [belowFloor_iff]; omega
  rw [frameDone, Config.lengthOffset, hread, withRead_some, if_neg hnot]

variable {l : Byte} {r : Word}

theorem crcCheck_of_ne (hread : readU32 s.buf l.toNat = some r) (hne : crc32 (s.buf.take l.toNat) ≠ r) :
    crcCheck l s = .next (reject (crc32 (s.buf.take l.toNat)) r s) := by
  rw [crcCheck, hread, withRead_some, if_neg hne]

theorem crcCheck_of_eq (hread : readU32 s.buf l.toNat = some r) (heq : crc32 (s.buf.take l.toNat) = r) :
    crcCheck l s = accept s := by
  rw [crcCheck, hread, withRead_some, if_pos heq]

/-- A rejected frame: `REJECT` with its checksum and its trailer, then the return to Idle (R71). -/
theorem Rejected.exec_push (h : Rejected s b f) :
    exec (.push b) s = .next (toIdle
      (reject (crc32 (f.take (lengthOf f))) (BitVec.ofNat 32 (u32At f (lengthOf f))) (collected f s))) := by
  obtain ⟨hcompletes, hfloor, hne⟩ := h
  have hcheck : crcCheck (lengthByte f) (collected f s) = .next (reject _ _ (collected f s)) :=
    crcCheck_of_ne hcompletes.readU32_trailer (mt (eq_ofNat_u32At_iff _ _ _).mp hne)
  rw [hcompletes.exec_push, frameDone_of_aboveFloor hcompletes.readU8_length hfloor, hcheck]
  rfl

/-- An accepted frame: `ACCEPT`, then the return to Idle (R72). -/
theorem Accepted.exec_push (h : Accepted s b f) :
    exec (.push b) s = andThen (accept (collected f s)) fun t => .next (toIdle t) := by
  obtain ⟨hcompletes, hfloor, heq⟩ := h
  have hcheck : crcCheck (lengthByte f) (collected f s) = accept (collected f s) :=
    crcCheck_of_eq hcompletes.readU32_trailer ((eq_ofNat_u32At_iff _ _ _).mpr heq)
  rw [hcompletes.exec_push, frameDone_of_aboveFloor hcompletes.readU8_length hfloor, hcheck]

/-! The extractor answers on every frame above the floor (R74): no row reads past offset 37. -/

theorem readField_of_le {o : Nat} (h : o + 4 ≤ f.length) (kind : FieldKind) : ∃ raw, readField f o kind = some raw := by
  have hword := readU16_of_le (show o + 2 ≤ f.length by omega)
  cases kind with
  | int16 => exact ⟨_, by rw [readField, hword, Option.map_some]⟩
  | absInt16 => exact ⟨_, by rw [readField, hword, Option.map_some]⟩
  | uint16 => exact ⟨_, by rw [readField, hword, Option.map_some]⟩
  | distance => exact ⟨_, by rw [readField, readDistance_of_le h, Option.map_some]⟩

theorem extractFields_of_le {rows : List FieldRow} (h : ∀ r ∈ rows, r.offset + 4 ≤ f.length) :
    ∃ sample, extractFields f rows = some sample := by
  induction rows with
  | nil => exact ⟨[], rfl⟩
  | cons r rows ih =>
    rw [List.forall_mem_cons] at h
    obtain ⟨raw, hraw⟩ := readField_of_le h.1 r.kind
    obtain ⟨rest, hrest⟩ := ih h.2
    rw [extractFields]
    split
    · exact ⟨(r.key, ⟨raw, r.div⟩) :: rest, by rw [hraw, hrest]⟩
    · exact ⟨rest, hrest⟩

theorem extract_of_le (h : 38 ≤ f.length) : ∃ sample mver, extract f = some (sample, mver) := by
  have hrows : ∀ r ∈ fieldTable, r.offset + 4 ≤ 38 := by decide
  obtain ⟨sample, hsample⟩ := extractFields_of_le fun r hr => (hrows r hr).trans h
  exact ⟨sample, majorVersion sample, by rw [extract, hsample, Option.map_some]⟩

/-! The accumulator (R91 to R96): the slots after a sub-packet come from the frame and the slots alone. -/

/-- The slots that a sub-packet instruction leaves; a host operation's arm leaves them as they are. -/
def slotsAfter (i : Instr) (f : Frame) (m : Bms) : Bms :=
  match i with
  | .push _ | .query | .clear => m
  | .bmsShape0Currents _ => if currentsGate f then writeCurrents f m else m
  | .bmsShape1Cells0To14 u => setBmsUnit m (unitOfField u) (writeCells f 0 15 53 (bmsUnit m (unitOfField u)))
  | .bmsShape2Cells15To29 u => setBmsUnit m (unitOfField u) (writeCells f 15 15 53 (bmsUnit m (unitOfField u)))
  | .bmsShape3Cells30To41Temps u => setBmsUnit m (unitOfField u) (shape3Unit f (bmsUnit m (unitOfField u)))

theorem runSubPacket_eq (i : Instr) (s : State) : runSubPacket i s = .next (setBms (slotsAfter i s.buf s.bms) s) := by
  cases i with
  | bmsShape0Currents u =>
    simp only [runSubPacket, execBmsShape0Currents, slotsAfter]
    split <;> rfl
  | _ => rfl

/-- A sub-packet index is never a host operation, so its instruction is what the accumulator runs (R91). -/
theorem exec_decodePnum_eq_runSubPacket (p : Byte) (s : State) :
    exec (decodePnum p) s = runSubPacket (decodePnum p) s := by
  rw [decodePnum]
  split
  · rfl
  split
  · rfl
  split
  · rfl
  · rfl

theorem exec_decodePnum (p : Byte) (s : State) :
    exec (decodePnum p) s = .next (setBms (slotsAfter (decodePnum p) s.buf s.bms) s) := by
  rw [exec_decodePnum_eq_runSubPacket, runSubPacket_eq]

variable {mver : Nat}

theorem bmsSubStep_of_gate (hgate : 5 ≤ mver ∧ 46 < s.buf.length) :
    bmsSubStep mver s = exec (decodePnum (s.buf.getD 46 0#8)) s := by
  rw [bmsSubStep, if_pos ((bmsGate_iff mver s.buf).mpr hgate), bmsAccumulate, Config.pnumOffset,
    readU8_of_lt hgate.2, withRead_some, exec_decodePnum_eq_runSubPacket]

theorem bmsSubStep_of_not_gate (hgate : ¬ (5 ≤ mver ∧ 46 < s.buf.length)) : bmsSubStep mver s = .next s := by
  rw [bmsSubStep, if_neg (mt (bmsGate_iff mver s.buf).mp hgate)]

/-! Acceptance (R72). -/

/-- With a sub-step that leaves the slots `m`, the snapshot is composed of the Sample and `m`. -/
theorem accept_of_bmsSubStep {sample : Snapshot} {m : Bms} (hextract : extract s.buf = some (sample, mver))
    (hsub : bmsSubStep mver s = .next (setBms m s)) :
    accept s = .next (publish (compose sample mver m) (setBms m s)) := by
  rw [accept, hextract, withRead_some, hsub]
  rfl

/-- The slots after the BMS sub-step of a completed frame: those of byte 46's instruction, which may as well run from
the state before the push with the frame in its buffer, or the old ones. -/
theorem bmsSubStep_collected (mver : Nat) (f : Frame) (s : State) :
    ∃ m, bmsSubStep mver (collected f s) = .next (setBms m (collected f s)) ∧
      if 5 ≤ mver ∧ 46 < f.length then
        ∃ p u, f[46]? = some p ∧ exec (decodePnum p) { s with buf := f } = .next u ∧ m = u.bms
      else m = s.bms := by
  split
  next hgate =>
    refine ⟨slotsAfter (decodePnum (f.getD 46 0#8)) f s.bms, ?_, f.getD 46 0#8, _, readU8_of_lt hgate.2,
      exec_decodePnum _ _, rfl⟩
    rw [bmsSubStep_of_gate (s := collected f s) hgate, exec_decodePnum, collected_buf, collected_bms]
  next hgate => exact ⟨s.bms, bmsSubStep_of_not_gate hgate, rfl⟩

end Sys2Proof.Machine

namespace Sys2Proof.Proofs

open Sys2Proof.Machine

/-- Settles O23: below the floor the validator leaves the state, and only the return to Idle is left. -/
theorem frameBelowFloorIsDropped : Obligations.FrameBelowFloorIsDropped := by
  intro s b f h hfloor
  rw [h.exec_push, frameDone_of_belowFloor h.readU8_length hfloor]
  rfl

/-- Settles O24: the pair is the checksum and the trailer as a word. -/
theorem mismatchedFrameIsRejected : Obligations.MismatchedFrameIsRejected := by
  intro s b f h
  have ⟨hcompletes, hfloor, _⟩ := h
  refine ⟨_, BitVec.ofNat 32 (u32At f (lengthOf f)), rfl, (eq_ofNat_u32At_iff _ _ _).mp rfl, ?_⟩
  rw [h.exec_push, collected, ← hcompletes.len_eq hfloor]
  rfl

/-- Settles O25: the Sample, then the slots of the BMS sub-step, then the snapshot composed of the two. -/
theorem acceptedFrameSubSteps : Obligations.AcceptedFrameSubSteps := by
  intro s b f h
  have ⟨hcompletes, hfloor, _⟩ := h
  obtain ⟨sample, mver, hextract⟩ := extract_of_le (f := f) (by rw [hcompletes.length_eq]; omega)
  obtain ⟨m, hsub, hslots⟩ := bmsSubStep_collected mver f s
  refine ⟨sample, mver, toIdle (publish (compose sample mver m) (setBms m (collected f s))), hextract, ?_, ?_, hslots⟩
  · rw [h.exec_push, accept_of_bmsSubStep hextract hsub, andThen_next]
  · rw [collected, ← hcompletes.len_eq hfloor]
    rfl

end Sys2Proof.Proofs
end

section
/-! PROOF. The field extractor (spec/43_field_extractor.md R74 to R89): the Sample as the rows of the fixed-field map
whose gates hold, each read by the arithmetic of its type, and so what a Sample or a snapshot holds under
a fixed key. -/

namespace Sys2Proof.Machine

variable {f : Frame} {o : Nat}

/-! What a row of the map reads (R44, R45). -/

/-- The raw integer of a field by its type; a distance in the interleaved order of R45. -/
def rawAt (f : Frame) (o : Nat) : FieldKind → Int
  | .int16 => s16At f o
  | .absInt16 => |s16At f o|
  | .uint16 => u16At f o
  | .distance =>
    (byteAt f (o + 2) * 2 ^ 24 + byteAt f (o + 3) * 2 ^ 16 + byteAt f o * 2 ^ 8 + byteAt f (o + 1) : Nat)

/-- The words a distance read answers. -/
theorem readDistance_eq_some {w : Word} (h : readDistance f o = some w) :
    w.toNat = u16At f (o + 2) * 2 ^ 16 + u16At f o := by
  rw [readDistance] at h
  split at h
  next hi lo hhi hlo =>
    rw [← Option.some.inj h, toNat_append_byte, (readU16_eq_some hhi).2, (readU16_eq_some hlo).2]
  next => cases h

/-- A field read answers only the integer of its type. -/
theorem readField_eq_some {kind : FieldKind} {raw : Int} (h : readField f o kind = some raw) :
    raw = rawAt f o kind := by
  cases kind with
  | int16 =>
    obtain ⟨w, hw, rfl⟩ := Option.map_eq_some_iff.mp h
    rw [toInt_eq_sext16, (readU16_eq_some hw).2, rawAt, s16At]
  | absInt16 =>
    obtain ⟨w, hw, rfl⟩ := Option.map_eq_some_iff.mp h
    rw [Int.natCast_natAbs, toInt_eq_sext16, (readU16_eq_some hw).2, rawAt, s16At]
  | uint16 =>
    obtain ⟨w, hw, rfl⟩ := Option.map_eq_some_iff.mp h
    rw [(readU16_eq_some hw).2, rawAt]
  | distance =>
    obtain ⟨w, hw, rfl⟩ := Option.map_eq_some_iff.mp h
    rw [readDistance_eq_some hw, rawAt, Nat.cast_inj]
    simp only [u16At, Nat.add_assoc, Nat.reduceAdd]
    omega

/-! The Sample (R74). -/

/-- What a row adds to the Sample where its gate holds. -/
def rowEntry (f : Frame) (r : FieldRow) : Key × Entry := (r.key, ⟨rawAt f r.offset r.kind, r.div⟩)

/-- The Sample of some rows is, in their order, the entries of the rows whose gates hold. -/
theorem extractFields_eq_some {rows : List FieldRow} {sample : Snapshot} (h : extractFields f rows = some sample) :
    sample = (rows.filter (fieldPresent f)).map (rowEntry f) := by
  induction rows generalizing sample with
  | nil => exact (Option.some.inj h).symm
  | cons r rows ih =>
    rw [extractFields] at h
    split at h
    next hgate =>
      split at h
      next raw rest hraw hrest =>
        rw [← Option.some.inj h, ih hrest, readField_eq_some hraw, List.filter_cons_of_pos hgate, List.map_cons,
          rowEntry]
      next => cases h
    next hgate => rw [ih h, List.filter_cons_of_neg hgate]

theorem extract_eq_some {sample : Snapshot} {mver : Nat} (h : extract f = some (sample, mver)) :
    sample = (fieldTable.filter (fieldPresent f)).map (rowEntry f) ∧ mver = majorVersion sample := by
  obtain ⟨rows, hrows, heq⟩ := Option.map_eq_some_iff.mp h
  obtain ⟨rfl, rfl⟩ := Prod.mk.inj heq
  exact ⟨extractFields_eq_some hrows, rfl⟩

theorem nodup_keys_fieldTable : (fieldTable.map FieldRow.key).Nodup := by decide

/-- No key stands twice in a Sample (log 10). -/
theorem nodup_keys_of_extract {sample : Snapshot} {mver : Nat} (h : extract f = some (sample, mver)) :
    (sample.map Prod.fst).Nodup := by
  obtain ⟨rfl, -⟩ := extract_eq_some h
  rw [List.map_map]
  exact nodup_keys_fieldTable.sublist (List.filter_sublist.map FieldRow.key)

/-- Where no key stands twice, looking up a member's key answers the member. -/
theorem lookup_of_mem_of_nodup {m : Snapshot} {k : Key} {e : Entry} (hnodup : (m.map Prod.fst).Nodup)
    (hmem : (k, e) ∈ m) : m.lookup k = some e := by
  obtain ⟨before, after, rfl⟩ := List.append_of_mem hmem
  refine List.lookup_eq_some_iff.mpr ⟨before, after, rfl, fun p hp => bne_iff_ne.mpr ?_⟩
  rw [List.map_append, List.map_cons, List.nodup_append] at hnodup
  obtain ⟨-, -, hapart⟩ := hnodup
  exact (hapart _ (List.mem_map_of_mem hp) _ List.mem_cons_self).symm

/-- The Sample holds a row's entry under the row's key exactly when the row's gate holds. -/
theorem lookup_of_extract {sample : Snapshot} {mver : Nat} (h : extract f = some (sample, mver)) {r : FieldRow}
    (hr : r ∈ fieldTable) :
    sample.lookup r.key = if r.minLength ≤ f.length then some ⟨rawAt f r.offset r.kind, r.div⟩ else none := by
  have hnodup := nodup_keys_of_extract h
  obtain ⟨rfl, -⟩ := extract_eq_some h
  split
  next hgate =>
    have hpresent := List.mem_filter.mpr ⟨hr, (fieldPresent_iff f r).mpr hgate⟩
    exact lookup_of_mem_of_nodup hnodup (List.mem_map_of_mem (f := rowEntry f) hpresent)
  next hgate =>
    refine List.lookup_eq_none_iff.mpr fun p hp => bne_iff_ne.mpr fun hkey => hgate ?_
    obtain ⟨r', hr', rfl⟩ := List.mem_map.mp hp
    obtain ⟨hmem, hpresent⟩ := List.mem_filter.mp hr'
    rw [List.inj_on_of_nodup_map nodup_keys_fieldTable hr hmem hkey]
    exact (fieldPresent_iff f r').mp hpresent

/-! The snapshot of an accepted frame holds the Sample (R104). -/

/-- The BMS part comes after the Sample and takes no key of it away. -/
theorem lookup_compose {sample : Snapshot} {k : Key} {e : Entry} (h : sample.lookup k = some e) (mver : Nat)
    (m : Bms) : (compose sample mver m).lookup k = some e := by
  rw [compose]
  split
  · rw [List.lookup_append, h, Option.some_or]
  · exact h

/-- Under the key of every row, the snapshot of an accepted frame holds the row's entry: such a frame has at least 43
bytes, and no gate asks for more than 36. -/
theorem Accepted.exists_snap_lookup {s : State} {b : Byte} (h : Accepted s b f) :
    ∃ t m, exec (.push b) s = .next t ∧ t.snap = some m ∧
      ∀ r ∈ fieldTable, m.lookup r.key = some ⟨rawAt f r.offset r.kind, r.div⟩ := by
  have ⟨hcompletes, hfloor, _⟩ := h
  obtain ⟨sample, mver, t, hextract, hexec, ht, -⟩ := Proofs.acceptedFrameSubSteps s b f h
  have hgates : ∀ r ∈ fieldTable, r.minLength ≤ 36 := by decide
  refine ⟨t, compose sample mver t.bms, hexec, by rw [ht], fun r hr => lookup_compose ?_ mver t.bms⟩
  have hlength := hcompletes.length_eq
  rw [lookup_of_extract hextract hr, if_pos ((hgates r hr).trans (by omega))]

/-! The major version (R89). -/

theorem majorVersion_of_absent {sample : Snapshot} (h : sample.lookup .version = none) : majorVersion sample = 0 := by
  rw [majorVersion, h]

theorem majorVersion_of_present {sample : Snapshot} {e : Entry} (h : sample.lookup .version = some e) :
    majorVersion sample = if e.raw ≤ 0 then 0 else (e.raw / 1000).toNat := by
  rw [majorVersion, h]

end Sys2Proof.Machine

namespace Sys2Proof.Proofs

open Sys2Proof.Machine

/-- Settles O30: the ten rows of the map without a gate, in the snapshot of the frame. -/
theorem acceptedFrameFields : Obligations.AcceptedFrameFields := by
  intro s b f h
  obtain ⟨t, m, hexec, hsnap, hlookup⟩ := h.exists_snap_lookup
  exact ⟨t, m, hexec, hsnap,
    hlookup ⟨.voltage, 4, .int16, 100, 0⟩ (by decide),
    hlookup ⟨.speed, 6, .absInt16, 10, 0⟩ (by decide),
    hlookup ⟨.tripDistance, 8, .distance, 1000, 0⟩ (by decide),
    hlookup ⟨.totalDistance, 12, .distance, 1000, 0⟩ (by decide),
    hlookup ⟨.current, 16, .int16, 10, 0⟩ (by decide),
    hlookup ⟨.temperature, 18, .uint16, 100, 0⟩ (by decide),
    hlookup ⟨.autoOff, 20, .int16, 1, 0⟩ (by decide),
    hlookup ⟨.chargeMode, 22, .int16, 1, 0⟩ (by decide),
    hlookup ⟨.speedAlert, 24, .int16, 1, 0⟩ (by decide),
    hlookup ⟨.speedTiltback, 26, .int16, 1, 0⟩ (by decide)⟩

/-- Settles O32: the four rows of the map with a gate, in the Sample. -/
theorem gatedFieldsFollowTheirGates : Obligations.GatedFieldsFollowTheirGates := by
  intro f sample mver h
  exact ⟨lookup_of_extract h (r := ⟨.version, 28, .int16, 1000, 30⟩) (by decide),
    lookup_of_extract h (r := ⟨.rideMode, 30, .int16, 1, 32⟩) (by decide),
    lookup_of_extract h (r := ⟨.pitchAngle, 32, .int16, 100, 34⟩) (by decide),
    lookup_of_extract h (r := ⟨.hpwm, 34, .int16, 100, 36⟩) (by decide)⟩

/-- Settles O33: by the sign of the raw version; where positive, its quotient is not negative, and `toNat` keeps it. -/
theorem majorVersionOfSample : Obligations.MajorVersionOfSample := by
  refine fun sample => ⟨majorVersion_of_absent, fun e hversion => ?_⟩
  rw [majorVersion_of_present hversion]
  split
  next hraw => exact ⟨fun _ => rfl, fun hpos => absurd hraw hpos.not_ge, fun _ => Nat.zero_le 32⟩
  next hraw =>
    have hquotient : ((e.raw / 1000).toNat : Int) = e.raw / 1000 := Int.toNat_of_nonneg (by omega)
    omega

end Sys2Proof.Proofs
end

section
/-! PROOF. The BMS sub-packet accumulator (spec/44_bms_accumulator.md R91 to R96): the instruction that byte 46 selects,
the next state of each shape as an update of the slots, and what the update leaves in each slot. -/

namespace Sys2Proof.Machine

/-! The dispatch (R91). -/

theorem bmsAccumulate_of_byte {s : State} {p : Byte} (h : s.buf[46]? = some p) :
    bmsAccumulate s = exec (decodePnum p) s := by
  rw [bmsAccumulate, Config.pnumOffset, readU8, h, withRead_some, exec_decodePnum_eq_runSubPacket]

/-! The next state of each shape (R93 to R96). -/

variable (u : BitVec 6) (s : State)

theorem exec_bmsShape0_of_gate (h : 72 < s.buf.length) :
    exec (.bmsShape0Currents u) s = .next (setBms (writeCurrents s.buf s.bms) s) := by
  rw [exec, execBmsShape0Currents, if_pos ((currentsGate_iff s.buf).mpr h)]

theorem exec_bmsShape0_of_not_gate (h : ¬ 72 < s.buf.length) : exec (.bmsShape0Currents u) s = .next s := by
  rw [exec, execBmsShape0Currents, if_neg (mt (currentsGate_iff s.buf).mp h)]

theorem exec_bmsShape1 :
    exec (.bmsShape1Cells0To14 u) s =
      .next (setBms (setBmsUnit s.bms (unitOfField u)
        (writeCells s.buf 0 15 53 (bmsUnit s.bms (unitOfField u)))) s) := rfl

theorem exec_bmsShape2 :
    exec (.bmsShape2Cells15To29 u) s =
      .next (setBms (setBmsUnit s.bms (unitOfField u)
        (writeCells s.buf 15 15 53 (bmsUnit s.bms (unitOfField u)))) s) := rfl

theorem exec_bmsShape3 :
    exec (.bmsShape3Cells30To41Temps u) s =
      .next (setBms (setBmsUnit s.bms (unitOfField u) (shape3Unit s.buf (bmsUnit s.bms (unitOfField u)))) s) := rfl

variable {s}

variable {u}

/-- The frame of shapes 1 to 3: nothing outside the slots is written, and of the slots only those of the unit that R47
names, by the shape's update `g`. -/
theorem exists_next_of_setBmsUnit {i : Instr} {v : UnitId} {g : BmsUnit → BmsUnit}
    (hv : v = if u = 0#6 then UnitId.one else UnitId.two)
    (h : exec i s = .next (setBms (setBmsUnit s.bms (unitOfField u) (g (bmsUnit s.bms (unitOfField u)))) s)) :
    ∃ t, exec i s = .next t ∧ t = { s with bms := t.bms } ∧
      bmsUnit t.bms (otherUnit v) = bmsUnit s.bms (otherUnit v) ∧ bmsUnit t.bms v = g (bmsUnit s.bms v) := by
  rw [← unitOfField_eq] at hv
  subst hv
  exact ⟨_, h, rfl, bmsUnit_setBmsUnit_other _ _ _, bmsUnit_setBmsUnit _ _ _⟩

/-! What the writes leave in each slot (R92). -/

variable (f : Frame) (m : Bms) (v : UnitId) (b : BmsUnit)

@[simp] theorem bmsUnit_writeCurrents_cell : (bmsUnit (writeCurrents f m) v).cell = (bmsUnit m v).cell := by
  cases v <;> rfl

@[simp] theorem bmsUnit_writeCurrents_temp : (bmsUnit (writeCurrents f m) v).temp = (bmsUnit m v).temp := by
  cases v <;> rfl

variable {f}

/-- A word that is in the frame is its number by R10, whatever the slot held. -/
theorem getD_readU16_toNat {o : Nat} (h : o + 2 ≤ f.length) (old : Half) :
    ((readU16 f o).getD old).toNat = u16At f o := by
  rw [readU16_of_le h, Option.getD_some, toNat_ofNat_u16At]

theorem writeCurrents_unit1_cur_toNat (h : 71 ≤ f.length) : (writeCurrents f m).unit1.cur.toNat = u16At f 69 :=
  getD_readU16_toNat h m.unit1.cur

theorem writeCurrents_unit2_cur_toNat (h : 73 ≤ f.length) : (writeCurrents f m).unit2.cur.toNat = u16At f 71 :=
  getD_readU16_toNat h m.unit2.cur

variable (f)

theorem writeCells_cell_toNat (first count off : Nat) (i : Fin 42) :
    ((writeCells f first count off b).cell[i]).toNat =
      if first ≤ i.val ∧ i.val < first + count ∧ off + 2 * (i.val - first) + 2 ≤ f.length then
        u16At f (off + 2 * (i.val - first))
      else b.cell[i].toNat := by
  rw [writeCells_getElem, slotAfter_toNat]

theorem writeTemps_temp_toNat (off : Nat) (k : Fin 6) :
    ((writeTemps f off b).temp[k]).toNat =
      if off + 2 * k.val + 2 ≤ f.length then u16At f (off + 2 * k.val) else b.temp[k].toNat := by
  rw [writeTemps_getElem, slotAfter_toNat]
  simp only [Nat.zero_le, Nat.zero_add, Nat.sub_zero, k.isLt, true_and]

/-! The unit of shape 3: the gate of the temperatures decides nothing about the other slots (R96). -/

@[simp] theorem shape3Unit_cell : (shape3Unit f b).cell = (writeCells f 30 12 59 b).cell := by
  rw [shape3Unit]
  split
  · exact writeTemps_cell _ f 47
  · rfl

@[simp] theorem shape3Unit_cur : (shape3Unit f b).cur = b.cur := by
  rw [shape3Unit]
  split
  · rw [writeTemps_cur, writeCells_cur]
  · exact writeCells_cur b f 30 12 59

theorem shape3Unit_temp_toNat (k : Fin 6) :
    ((shape3Unit f b).temp[k]).toNat =
      if 57 < f.length ∧ 47 + 2 * k.val + 2 ≤ f.length then u16At f (47 + 2 * k.val) else b.temp[k].toNat := by
  by_cases hgate : 57 < f.length
  · rw [shape3Unit, if_pos ((tempsGate_iff f).mpr hgate), writeTemps_temp_toNat, writeCells_temp]
    simp only [hgate, true_and]
  · rw [shape3Unit, if_neg (mt (tempsGate_iff f).mp hgate), writeCells_temp, if_neg (fun h => hgate h.1)]

end Sys2Proof.Machine

namespace Sys2Proof.Proofs

open Sys2Proof.Machine

/-- Settles O34: by the gate; past it both words are in the frame, before it nothing is written. -/
theorem shape0WritesBothCurrents : Obligations.Shape0WritesBothCurrents := by
  intro u s
  by_cases hgate : 72 < s.buf.length
  · exact ⟨_, exec_bmsShape0_of_gate u s hgate, rfl,
      fun v => ⟨bmsUnit_writeCurrents_cell s.buf s.bms v, bmsUnit_writeCurrents_temp s.buf s.bms v⟩,
      fun _ => ⟨writeCurrents_unit1_cur_toNat s.bms (by omega), writeCurrents_unit2_cur_toNat s.bms hgate⟩,
      fun hle => absurd hgate hle.not_gt⟩
  · exact ⟨s, exec_bmsShape0_of_not_gate u s hgate, rfl, fun _ => ⟨rfl, rfl⟩, fun h => absurd h hgate, fun _ => rfl⟩

/-- Settles O35: the cell writes from slot 0 and offset 53. -/
theorem shape1WritesCells0To14 : Obligations.Shape1WritesCells0To14 := by
  intro u s v hv
  obtain ⟨t, hexec, hframe, hother, hunit⟩ := exists_next_of_setBmsUnit hv (exec_bmsShape1 u s)
  refine ⟨t, hexec, hframe, hother, ?_⟩
  rw [hunit]
  refine ⟨writeCells_temp _ _ _ _ _, writeCells_cur _ _ _ _ _, fun i => ?_⟩
  rw [writeCells_cell_toNat]
  simp only [Nat.zero_le, Nat.zero_add, Nat.sub_zero, true_and]

/-- Settles O36: the cell writes from slot 15 and offset 53. -/
theorem shape2WritesCells15To29 : Obligations.Shape2WritesCells15To29 := by
  intro u s v hv
  obtain ⟨t, hexec, hframe, hother, hunit⟩ := exists_next_of_setBmsUnit hv (exec_bmsShape2 u s)
  refine ⟨t, hexec, hframe, hother, ?_⟩
  rw [hunit]
  exact ⟨writeCells_temp _ _ _ _ _, writeCells_cur _ _ _ _ _, writeCells_cell_toNat _ _ 15 15 53⟩

/-- Settles O37: the cell writes from slot 30 and offset 59, which end at the last cell, and the temperatures. -/
theorem shape3WritesCells30To41AndTemps : Obligations.Shape3WritesCells30To41AndTemps := by
  intro u s v hv
  obtain ⟨t, hexec, hframe, hother, hunit⟩ := exists_next_of_setBmsUnit hv (exec_bmsShape3 u s)
  refine ⟨t, hexec, hframe, hother, ?_⟩
  rw [hunit]
  refine ⟨shape3Unit_cur _ _, fun i => ?_, shape3Unit_temp_toNat _ _⟩
  rw [shape3Unit_cell, writeCells_cell_toNat]
  simp only [Nat.reduceAdd, i.isLt, true_and]

/-- Settles O39: the decoder's row and unit field, by R47's two formulas. -/
theorem accumulatorRunsDecodedSubPacket : Obligations.AccumulatorRunsDecodedSubPacket := by
  intro s p hp
  refine ⟨pnumUnitField p, unitOfField_pnumUnitField p, ?_⟩
  rw [bmsAccumulate_of_byte hp, decodePnum_eq_of_mod]
  simp only [apply_ite (exec · s)]

end Sys2Proof.Proofs
end

section
/-! PROOF. The aggregator and the snapshot (spec/45_aggregator.md R101 to R104): the keys of a unit's part, none twice
and none shared with the Sample or the other unit, so that the snapshot of an accepted frame holds under a unit's key
what the unit's part holds; the valid cells and what the summaries say of them. -/

namespace Sys2Proof.Machine

/-! The unit a key belongs to (R102, R103). -/

/-- The unit of a BMS key; a fixed field's key belongs to none. -/
def bmsKeyUnit : Key → Option UnitId
  | .bmsVoltage u | .bmsMinCell u | .bmsMaxCell u | .bmsAvgCell u | .bmsDelta u => some u
  | .bmsCell u _ | .bmsTemp u _ | .bmsCurrent u => some u
  | _ => none

/-- The keys of the per-slot entries of a unit, in the order of R103. -/
def perSlotKeys (u : UnitId) : List Key :=
  (List.finRange 42).map (Key.bmsCell u) ++ ((List.finRange 6).map (Key.bmsTemp u) ++ [Key.bmsCurrent u])

/-- The keys of the five summaries of a unit, in the order of R102. -/
def summaryKeys (u : UnitId) : List Key :=
  [.bmsVoltage u, .bmsMinCell u, .bmsMaxCell u, .bmsAvgCell u, .bmsDelta u]

variable {u : UnitId} {k : Key} {e : Entry} {sample m : Snapshot}

theorem bmsKeyUnit_of_mem_perSlotKeys (hk : k ∈ perSlotKeys u) : bmsKeyUnit k = some u := by
  simp only [perSlotKeys, List.mem_append, List.mem_map, List.mem_singleton] at hk
  obtain ⟨i, -, rfl⟩ | ⟨t, -, rfl⟩ | rfl := hk <;> rfl

theorem bmsKeyUnit_of_mem_summaryKeys (hk : k ∈ summaryKeys u) : bmsKeyUnit k = some u := by
  simp only [summaryKeys, List.mem_cons, List.not_mem_nil, or_false] at hk
  obtain rfl | rfl | rfl | rfl | rfl := hk <;> rfl

theorem nodup_perSlotKeys (u : UnitId) : (perSlotKeys u).Nodup := by
  have hcells : ((List.finRange 42).map (Key.bmsCell u)).Nodup :=
    (List.nodup_finRange 42).map fun _ _ h => (Key.bmsCell.inj h).2
  have htemps : ((List.finRange 6).map (Key.bmsTemp u)).Nodup :=
    (List.nodup_finRange 6).map fun _ _ h => (Key.bmsTemp.inj h).2
  refine hcells.append (htemps.append (List.nodup_singleton _) ?_) ?_
  · simp
  · intro _ hcell
    obtain ⟨i, -, rfl⟩ := List.mem_map.mp hcell
    simp

theorem nodup_summaryKeys (u : UnitId) : (summaryKeys u).Nodup := by simp [summaryKeys]

theorem disjoint_perSlotKeys_summaryKeys (u : UnitId) : (perSlotKeys u).Disjoint (summaryKeys u) := by
  intro k hslot hsummary
  simp only [perSlotKeys, List.mem_append, List.mem_map, List.mem_singleton] at hslot
  obtain ⟨i, -, rfl⟩ | ⟨t, -, rfl⟩ | rfl := hslot <;> simp [summaryKeys] at hsummary

/-! The keys of a unit's part (R104). -/

variable (u) (b : BmsUnit)

theorem keys_perSlot : (perSlot u b).map Prod.fst = perSlotKeys u := by
  simp only [perSlot, perSlotKeys, List.map_append, List.map_map, List.map_cons, List.map_nil, Function.comp_def]

theorem keys_summaries_sublist : ((summaries u b).map Prod.fst).Sublist (summaryKeys u) := by
  rw [summaries]
  split
  · exact List.nil_sublist _
  · exact List.Sublist.refl _

theorem nodup_keys_unitPart : ((unitPart u b).map Prod.fst).Nodup := by
  have hsummaries := keys_summaries_sublist u b
  rw [unitPart, List.map_append, keys_perSlot]
  exact (nodup_perSlotKeys u).append ((nodup_summaryKeys u).sublist hsummaries)
    (List.disjoint_of_subset_right hsummaries.subset (disjoint_perSlotKeys_summaryKeys u))

theorem bmsKeyUnit_of_mem_keys_unitPart (hk : k ∈ (unitPart u b).map Prod.fst) : bmsKeyUnit k = some u := by
  rw [unitPart, List.map_append, List.mem_append, keys_perSlot] at hk
  obtain hslot | hsummary := hk
  · exact bmsKeyUnit_of_mem_perSlotKeys hslot
  · exact bmsKeyUnit_of_mem_summaryKeys ((keys_summaries_sublist u b).subset hsummary)

variable {u b}

theorem lookup_eq_none_of_notMem_keys (h : k ∉ m.map Prod.fst) : m.lookup k = none :=
  List.lookup_eq_none_iff.mpr fun _ hp => bne_iff_ne.mpr fun hk => h (hk ▸ List.mem_map_of_mem hp)

theorem lookup_unitPart_of_mem (h : (k, e) ∈ unitPart u b) : (unitPart u b).lookup k = some e :=
  lookup_of_mem_of_nodup (nodup_keys_unitPart u b) h

/-- A unit's part holds nothing under a key of the other unit. -/
theorem lookup_unitPart_of_ne {v : UnitId} (hk : bmsKeyUnit k = some u) (hne : u ≠ v) (c : BmsUnit) :
    (unitPart v c).lookup k = none :=
  lookup_eq_none_of_notMem_keys fun hmem =>
    hne (Option.some.inj (hk.symm.trans (bmsKeyUnit_of_mem_keys_unitPart v c hmem)))

/-! The snapshot of an accepted frame under a unit's keys (R104). -/

variable {f : Frame} {mver : Nat}

/-- The Sample has the fixed fields only. -/
theorem lookup_bmsKey_of_extract (h : extract f = some (sample, mver)) (hk : bmsKeyUnit k = some u) :
    sample.lookup k = none := by
  have hrows : ∀ r ∈ fieldTable, bmsKeyUnit r.key = none := by decide
  obtain ⟨rfl, -⟩ := extract_eq_some h
  refine lookup_eq_none_of_notMem_keys fun hmem => ?_
  rw [List.map_map, List.mem_map] at hmem
  obtain ⟨r, hr, rfl⟩ := hmem
  exact absurd ((hrows r (List.mem_of_mem_filter hr)).symm.trans hk) nofun

/-- Above the version gate the composition holds, under a unit's key, what that unit's part holds. -/
theorem lookup_compose_bmsKey (h : extract f = some (sample, mver)) (hmver : 5 ≤ mver) (hk : bmsKeyUnit k = some u)
    (bms : Bms) : (compose sample mver bms).lookup k = (unitPart u (bmsUnit bms u)).lookup k := by
  rw [compose, if_pos ((bmsEnabled_iff mver).mpr hmver), List.lookup_append, List.lookup_append,
    lookup_bmsKey_of_extract h hk, Option.none_or]
  cases u with
  | one => rw [lookup_unitPart_of_ne (v := .two) hk (by decide), Option.or_none, bmsUnit_one]
  | two => rw [lookup_unitPart_of_ne (v := .one) hk (by decide), Option.none_or, bmsUnit_two]

/-- The extractor's major version is that of R89's arithmetic where the frame holds its version field. -/
theorem mver_of_extract (h : extract f = some (sample, mver)) (hlength : 30 ≤ f.length) : mver = mverAt f := by
  obtain ⟨-, rfl⟩ := extract_eq_some h
  have hversion := lookup_of_extract h (r := ⟨.version, 28, .int16, 1000, 30⟩) (by decide)
  rw [if_pos hlength] at hversion
  rw [majorVersion_of_present hversion]
  rfl

/-- An accepted frame above the version gate publishes, under a unit's key, what the part of that unit's slots after
the frame holds. -/
theorem Accepted.exists_snap_lookup_bmsKey {s : State} {byte : Byte} (h : Accepted s byte f) (hmver : 5 ≤ mverAt f) :
    ∃ t m, exec (.push byte) s = .next t ∧ t.snap = some m ∧
      ∀ u k, bmsKeyUnit k = some u → m.lookup k = (unitPart u (bmsUnit t.bms u)).lookup k := by
  have ⟨hcompletes, hfloor, _⟩ := h
  have hlength := hcompletes.length_eq
  obtain ⟨sample, mver, t, hextract, hexec, ht, -⟩ := Proofs.acceptedFrameSubSteps s byte f h
  have hgate : 5 ≤ mver := by rwa [mver_of_extract hextract (by omega)]
  exact ⟨t, compose sample mver t.bms, hexec, by rw [ht], fun u k hk => lookup_compose_bmsKey hextract hgate hk t.bms⟩

/-! The per-slot entries (R103). -/

variable (u b)

theorem lookup_unitPart_bmsCell (i : Fin 42) :
    (unitPart u b).lookup (.bmsCell u i) = some ⟨cellvalAt b i, 1000⟩ := by
  refine lookup_unitPart_of_mem (List.mem_append_left _ (List.mem_append_left _ ?_))
  rw [← cellValue_eq]
  exact List.mem_map_of_mem (List.mem_finRange i)

theorem lookup_unitPart_bmsTemp (t : Fin 6) :
    (unitPart u b).lookup (.bmsTemp u t) = some ⟨sext16 b.temp[t].toNat, 100⟩ := by
  refine lookup_unitPart_of_mem (List.mem_append_left _ (List.mem_append_right _ (List.mem_append_left _ ?_)))
  rw [← toInt_eq_sext16]
  exact List.mem_map_of_mem (List.mem_finRange t)

theorem lookup_unitPart_bmsCurrent :
    (unitPart u b).lookup (.bmsCurrent u) = some ⟨sext16 b.cur.toNat, 100⟩ := by
  refine lookup_unitPart_of_mem (List.mem_append_left _ (List.mem_append_right _ (List.mem_append_right _ ?_)))
  rw [← toInt_eq_sext16]
  exact List.mem_singleton_self _

/-! The valid cells (R101) and the summaries over them (R102). -/

theorem take_aggregated_finRange :
    (List.finRange 42).take Config.aggregated = (List.finRange 42).filter fun i => i.val < 36 := by decide

/-- The model's three passes over the cells are R101's one. -/
theorem validCells_eq : validCells b = validCellsAt b := by
  simp only [validCells, take_aggregated_finRange, cellValue_eq]
  rw [← List.filterMap_eq_filter, ← List.filterMap_eq_filter, ← List.filterMap_eq_map, List.filterMap_filterMap,
    List.filterMap_filterMap]
  refine List.filterMap_congr fun i _ => ?_
  by_cases hslot : i.val < 36 <;> simp [hslot, Option.guard]

variable {b}

/-- With no valid cell the unit's part is its per-slot entries, so no summary is in it. -/
theorem lookup_unitPart_summaryKey_of_nil (h : validCellsAt b = []) (hk : k ∈ summaryKeys u) :
    (unitPart u b).lookup k = none := by
  refine lookup_eq_none_of_notMem_keys fun hmem => ?_
  rw [unitPart, summaries, validCells_eq, h, List.append_nil, keys_perSlot] at hmem
  exact disjoint_perSlotKeys_summaryKeys u hmem hk

/-- With valid cells the unit's part holds the five summaries over them. -/
theorem lookup_unitPart_summary {v : Int} {vs : List Int} (h : validCellsAt b = v :: vs)
    (hmem : (k, e) ∈ summariesOf u v vs) : (unitPart u b).lookup k = some e := by
  refine lookup_unitPart_of_mem (List.mem_append_right _ ?_)
  rwa [summaries, validCells_eq, h]

/-- The running minimum is a member and a lower bound. -/
theorem foldl_min_mem_and_le (v : Int) (vs : List Int) :
    vs.foldl min v ∈ v :: vs ∧ ∀ x ∈ v :: vs, vs.foldl min v ≤ x :=
  List.min?_eq_some_iff.mp List.min?_cons'

/-- The running maximum is a member and an upper bound. -/
theorem foldl_max_mem_and_ge (v : Int) (vs : List Int) :
    vs.foldl max v ∈ v :: vs ∧ ∀ x ∈ v :: vs, x ≤ vs.foldl max v :=
  List.max?_eq_some_iff.mp List.max?_cons'

end Sys2Proof.Machine

namespace Sys2Proof.Proofs

open Sys2Proof.Machine

/-- Settles O41: each entry is a member of its unit's part, with the signs of R20 to R22. -/
theorem perSlotEntriesAreExposed : Obligations.PerSlotEntriesAreExposed := by
  intro s b f h hmver
  obtain ⟨t, m, hexec, hsnap, hlookup⟩ := h.exists_snap_lookup_bmsKey hmver
  refine ⟨t, m, hexec, hsnap, fun u => ⟨fun i => ?_, fun k => ?_, ?_⟩⟩
  · rw [hlookup u _ rfl, lookup_unitPart_bmsCell]
  · rw [hlookup u _ rfl, lookup_unitPart_bmsTemp]
  · rw [hlookup u _ rfl, lookup_unitPart_bmsCurrent]

/-- Settles O42: with no valid cell the summary keys are in no part; otherwise the running minimum and maximum are the
least and the greatest valid cell. -/
theorem summariesOverValidCells : Obligations.SummariesOverValidCells := by
  intro s b f h hmver
  obtain ⟨t, m, hexec, hsnap, hlookup⟩ := h.exists_snap_lookup_bmsKey hmver
  refine ⟨t, m, hexec, hsnap, fun u => ?_⟩
  cases hcells : validCellsAt (bmsUnit t.bms u) with
  | nil =>
    have habsent : ∀ k ∈ summaryKeys u, m.lookup k = none := fun k hk => by
      rw [hlookup u k (bmsKeyUnit_of_mem_summaryKeys hk), lookup_unitPart_summaryKey_of_nil u hcells hk]
    simp only [summaryKeys, List.forall_mem_cons] at habsent
    obtain ⟨hsum, hmin, hmax, havg, hdelta, -⟩ := habsent
    exact ⟨fun _ => ⟨hsum, hmin, hmax, havg, hdelta⟩, fun hne => absurd rfl hne⟩
  | cons v vs =>
    have hpresent : ∀ p ∈ summariesOf u v vs, bmsKeyUnit p.1 = some u → m.lookup p.1 = some p.2 := fun p hp hk => by
      rw [hlookup u p.1 hk, lookup_unitPart_summary u hcells hp]
    simp only [summariesOf, List.forall_mem_cons] at hpresent
    obtain ⟨hsum, hmin, hmax, havg, hdelta, -⟩ := hpresent
    obtain ⟨hlo, hle⟩ := foldl_min_mem_and_le v vs
    obtain ⟨hhi, hge⟩ := foldl_max_mem_and_ge v vs
    exact ⟨nofun, fun _ => ⟨_, hlo, _, hhi, fun x hx => ⟨hle x hx, hge x hx⟩,
      hsum rfl, hmin rfl, hmax rfl, havg rfl, hdelta rfl⟩⟩

end Sys2Proof.Proofs
end

section
/-! PROOF. The host interface (spec/46_host_interface.md R109, R110): what `QUERY` and `CLEAR` run. Both start with the
outputs cleared (R106), and that touches no element of the block's own state. -/

namespace Sys2Proof.Machine

variable (s : State)

/-! The operations without an operand (R109, R110). -/

theorem exec_query : exec .query s = .next (respond (clearOutputs s)) := rfl

theorem exec_clear : exec .clear s = .next { clearOutputs s with snap := none } := rfl

/-- The response holds the two registers as they were before the outputs were cleared. -/
theorem respond_clearOutputs :
    respond (clearOutputs s) = { s with response := some ⟨s.snap, s.diag⟩, events := [] } := rfl

/-- Only the outputs were written besides the snapshot register. -/
theorem clearOutputs_noData :
    { clearOutputs s with snap := none } = { s with snap := none, response := none, events := [] } := rfl

end Sys2Proof.Machine

namespace Sys2Proof.Proofs

open Sys2Proof.Machine

/-- Settles O13: the response to a state with its outputs cleared. -/
theorem queryReturnsSnapshotAndDiag : Obligations.QueryReturnsSnapshotAndDiag := by
  intro s
  rw [exec_query, respond_clearOutputs]

/-- Settles O14: a state with its outputs cleared and no snapshot. -/
theorem clearSetsNoDataOnly : Obligations.ClearSetsNoDataOnly := by
  intro s
  rw [exec_clear, clearOutputs_noData]

end Sys2Proof.Proofs
end

section
/-! PROOF. The power-on reset input (spec/70_reset_and_hazards.md R126): a step with it pending is the power-on reset,
and every accumulator slot of the state it makes is zero. -/

namespace Sys2Proof.Machine

variable {s : State}

/-- Of the state before the step, only the host's later operations stay (log 7). -/
theorem step_of_reset {rest : List HostInput} (hhost : s.host = .reset :: rest) :
    step s = .next (powerOnReset { s with host := rest }) := by
  simp only [step, fetch, hhost]

/-! The slots of a zero unit (R27). -/

theorem BmsUnit.zero_cell (i : Fin 42) : BmsUnit.zero.cell[i] = 0#16 := Vector.getElem_replicate i.isLt
theorem BmsUnit.zero_temp (k : Fin 6) : BmsUnit.zero.temp[k] = 0#16 := Vector.getElem_replicate k.isLt
theorem BmsUnit.zero_cur : BmsUnit.zero.cur = 0#16 := rfl

/-- Both units are zero after the reset, whichever is named. -/
theorem bmsUnit_powerOnReset (u : UnitId) : bmsUnit (powerOnReset s).bms u = BmsUnit.zero := by
  cases u with
  | one => rw [powerOnReset_bms, bmsUnit_one]
  | two => rw [powerOnReset_bms, bmsUnit_two]

end Sys2Proof.Machine

namespace Sys2Proof.Proofs

open Sys2Proof.Machine

/-- Settles O8: the step answers the power-on reset, whose elements are read off one by one. -/
theorem resetInputSetsEveryElement : Obligations.ResetInputSetsEveryElement := by
  intro s rest hhost
  refine ⟨_, step_of_reset hhost, powerOnReset_phase _, powerOnReset_prev1 _, powerOnReset_prev2 _, powerOnReset_buf _,
    powerOnReset_len _, fun u i => ?cells, fun u k => ?temps, fun u => ?currents, powerOnReset_snap _,
    powerOnReset_diag _, powerOnReset_events _⟩
  case cells => rw [bmsUnit_powerOnReset, BmsUnit.zero_cell]
  case temps => rw [bmsUnit_powerOnReset, BmsUnit.zero_temp]
  case currents => rw [bmsUnit_powerOnReset, BmsUnit.zero_cur]

end Sys2Proof.Proofs
end

section
/-! PROOF. Encoder against decoder (spec/30_encoding.md R47, R50 to R52): the fields of the encoder's words, and the two
compositions of encoder and decoder. -/

namespace Sys2Proof

/-! The two fields of a sub-packet index (R47) and the command word of `PUSH` (R51). -/

theorem pnumUnitField_append (u : BitVec 6) (k : BitVec 2) : pnumUnitField (u ++ k) = u := by
  rw [← BitVec.toNat_inj, pnumUnitField_toNat, Machine.toNat_append_byte]
  omega

theorem pnumShape_append (u : BitVec 6) (k : BitVec 2) : pnumShape (u ++ k) = k := by
  rw [← BitVec.toNat_inj, pnumShape_toNat, Machine.toNat_append_byte]
  omega

/-- A sub-packet index is its two fields side by side. -/
theorem pnumUnitField_append_pnumShape (p : Byte) : pnumUnitField p ++ pnumShape p = p := by
  rw [← BitVec.toNat_inj, Machine.toNat_append_byte, pnumUnitField_toNat, pnumShape_toNat]
  omega

theorem toNat_zero_append (b : Byte) : (0#8 ++ b : Half).toNat = b.toNat := by
  rw [Machine.toNat_append_byte, BitVec.toNat_ofNat, Nat.zero_mod, Nat.zero_mul, Nat.zero_add]

/-- The command word of `PUSH b` decodes to it (R51). -/
theorem decodeCommand_zero_append (b : Byte) : decodeCommand (0#8 ++ b) = .ok (.push b) := by
  rw [decodeCommand_eq_push_iff, ← BitVec.toNat_inj, fieldData_toNat, toNat_zero_append]
  omega

/-- A word below 256 is the command word of `PUSH` of its data field. -/
theorem zero_append_fieldData {w : Half} (h : w.toNat < 256) : 0#8 ++ fieldData w = w := by
  rw [← BitVec.toNat_inj, toNat_zero_append, fieldData_toNat]
  omega

/-! The compositions. -/

theorem decode_encode (i : Instr) : decode (encode i) = .ok i := by
  cases i with
  | push b => exact decodeCommand_zero_append b
  | query => exact (decodeCommand_eq_query_iff _).mpr rfl
  | clear => exact (decodeCommand_eq_clear_iff _).mpr rfl
  | bmsShape0Currents u => simp [encode, decode, decodePnum, pnumShape_append, pnumUnitField_append]
  | bmsShape1Cells0To14 u => simp [encode, decode, decodePnum, pnumShape_append, pnumUnitField_append]
  | bmsShape2Cells15To29 u => simp [encode, decode, decodePnum, pnumShape_append, pnumUnitField_append]
  | bmsShape3Cells30To41Temps u => simp [encode, decode, decodePnum, pnumShape_append, pnumUnitField_append]

/-- The four shapes leave no sub-packet index out. -/
theorem encode_decodePnum (p : Byte) : encode (decodePnum p) = .pnum8 p := by
  have hfields := pnumUnitField_append_pnumShape p
  rw [decodePnum]
  split
  next h0 => rw [encode, ← h0, hfields]
  split
  next h1 => rw [encode, ← h1, hfields]
  split
  next h2 => rw [encode, ← h2, hfields]
  next h0 h1 h2 =>
    have h3 : pnumShape p = 3#2 := by
      rw [← BitVec.toNat_inj] at *
      simp only [BitVec.toNat_ofNat] at *
      omega
    rw [encode, ← h3, hfields]

theorem encode_of_decodeCommand {w : Half} {i : Instr} (h : decodeCommand w = .ok i) : encode i = .cmd16 w := by
  rcases decodeCommand_cases w with ⟨hlt, hd⟩ | ⟨rfl, hd⟩ | ⟨rfl, hd⟩ | ⟨-, why, hd⟩ <;> cases hd.symm.trans h
  · rw [encode, zero_append_fieldData hlt]
  · rfl
  · rfl

theorem encode_of_decode {e : Encoded} {i : Instr} (h : decode e = .ok i) : encode i = e := by
  cases e with
  | cmd16 w => exact encode_of_decodeCommand h
  | pnum8 p =>
    rw [← Except.ok.inj h]
    exact encode_decodePnum p

end Sys2Proof

namespace Sys2Proof.Proofs

/-- Settles O1: each direction is one of the two compositions. -/
theorem decodeAndEncodeAreInverse : Obligations.DecodeAndEncodeAreInverse := by
  refine fun e i => ⟨fun h => (encode_of_decode h).symm, ?_⟩
  rintro rfl
  exact decode_encode i

/-- Settles O3: seven closed words. -/
theorem specWordsDecode : Obligations.SpecWordsDecode := by
  unfold Obligations.SpecWordsDecode
  decide

end Sys2Proof.Proofs
end

section
/-! PROOF. The validator as a function (spec/42_validator.md R69 to R72): what becomes of a completed frame depends on
its bytes and the slots alone, and is one of three updates of the state. -/

namespace Sys2Proof.Machine

/-! The BMS sub-step (R72, R91). -/

/-- The slots after the BMS sub-step of the frame `f` over the slots `m`. -/
def frameSlots (mver : Nat) (f : Frame) (m : Bms) : Bms :=
  if 5 ≤ mver ∧ 46 < f.length then slotsAfter (decodePnum (f.getD 46 0#8)) f m else m

/-- The sub-step never stops: its gate asks for the byte that it reads. -/
theorem bmsSubStep_eq (mver : Nat) (s : State) :
    bmsSubStep mver s = .next (setBms (frameSlots mver s.buf s.bms) s) := by
  by_cases hgate : 5 ≤ mver ∧ 46 < s.buf.length
  · rw [bmsSubStep_of_gate hgate, exec_decodePnum, frameSlots, if_pos hgate]
  · rw [bmsSubStep_of_not_gate hgate, frameSlots, if_neg hgate]
    rfl

theorem accept_eq (s : State) :
    accept s = withRead (extract s.buf) fun x =>
      .next (publish (compose x.1 x.2 (frameSlots x.2 s.buf s.bms)) (setBms (frameSlots x.2 s.buf s.bms) s)) := by
  simp only [accept, bmsSubStep_eq, andThen_next, setBms_bms]

/-! The verdict on a frame and its effect (R69, R71, R72). -/

/-- What becomes of a completed frame. -/
inductive Verdict where
  /-- Below the floor (R69). -/
  | dropped
  /-- The checksum differs from the trailer (R71). -/
  | rejected (computed received : Word)
  /-- The slots and the snapshot that the frame leaves (R72). -/
  | accepted (slots : Bms) (snapshot : Snapshot)

/-- The update of the state that a verdict stands for. -/
def Verdict.apply : Verdict → State → State
  | .dropped, s => s
  | .rejected c r, s => reject c r s
  | .accepted m sn, s => publish sn (setBms m s)

/-- The verdict on the frame `f` over the slots `m`; none where a rule reads outside the frame. -/
def frameVerdict (f : Frame) (m : Bms) : Option Verdict :=
  (readU8 f 3).bind fun l =>
    if l.toNat ≤ 38 then some .dropped
    else (readU32 f l.toNat).bind fun r =>
      if crc32 (f.take l.toNat) = r then
        (extract f).map fun x => .accepted (frameSlots x.2 f m) (compose x.1 x.2 (frameSlots x.2 f m))
      else some (.rejected (crc32 (f.take l.toNat)) r)

/-- The validator answers the verdict's update. -/
theorem frameDone_eq (s : State) :
    frameDone s = withRead (frameVerdict s.buf s.bms) fun v => .next (v.apply s) := by
  rw [frameDone, Config.lengthOffset, frameVerdict]
  cases hlength : readU8 s.buf 3 with
  | none => rfl
  | some l =>
    by_cases hfloor : l.toNat ≤ 38
    · simp [hfloor, Verdict.apply]
    cases htrailer : readU32 s.buf l.toNat with
    | none => simp [hfloor, crcCheck, htrailer]
    | some r =>
      by_cases hcrc : crc32 (s.buf.take l.toNat) = r
      · simp only [withRead_some, belowFloor_iff, hfloor, crcCheck, htrailer, hcrc, accept_eq, if_false, if_true,
          Option.bind_some]
        cases extract s.buf <;> rfl
      · simp [hfloor, crcCheck, htrailer, hcrc, Verdict.apply]

/-! What no verdict changes. -/

variable (v : Verdict) (s : State)

@[simp] theorem Verdict.apply_prev1 : (v.apply s).prev1 = s.prev1 := by cases v <;> rfl
@[simp] theorem Verdict.apply_prev2 : (v.apply s).prev2 = s.prev2 := by cases v <;> rfl
@[simp] theorem Verdict.apply_len : (v.apply s).len = s.len := by cases v <;> rfl
@[simp] theorem Verdict.apply_response : (v.apply s).response = s.response := by cases v <;> rfl
@[simp] theorem Verdict.apply_host : (v.apply s).host = s.host := by cases v <;> rfl

/-! What a verdict of acceptance says of the frame (R70, R72). -/

variable {s} {b : Byte} {f : Frame} {m slots : Bms} {sn : Snapshot}

theorem lengthByte_of_getElem {l : Byte} (h : f[3]? = some l) : lengthByte f = l := by
  rw [lengthByte, List.getD_eq_getElem?_getD, h, Option.getD_some]

theorem frameVerdict_eq_accepted (h : frameVerdict f m = some (.accepted slots sn)) :
    38 < lengthOf f ∧ (crc32 (f.take (lengthOf f))).toNat = u32At f (lengthOf f) ∧
    ∃ sample mver, extract f = some (sample, mver) ∧ slots = frameSlots mver f m ∧
      sn = compose sample mver slots := by
  obtain ⟨l, hl, h⟩ := Option.bind_eq_some_iff.mp h
  have hlength : lengthByte f = l := lengthByte_of_getElem hl
  rw [lengthOf, hlength]
  split at h
  next => cases h
  next hfloor =>
    obtain ⟨r, hr, h⟩ := Option.bind_eq_some_iff.mp h
    split at h
    next hcrc =>
      obtain ⟨⟨sample, mver⟩, hextract, heq⟩ := Option.map_eq_some_iff.mp h
      obtain ⟨rfl, rfl⟩ := Verdict.accepted.inj heq
      have htrailer : l.toNat + 4 ≤ f.length := by
        by_contra hshort
        rw [readU32_of_lt (by omega)] at hr
        cases hr
      rw [readU32_of_le htrailer] at hr
      exact ⟨by omega, (eq_ofNat_u32At_iff _ _ _).mp (hcrc.trans (Option.some.inj hr).symm),
        sample, mver, hextract, rfl, rfl⟩
    next => cases h

/-- Every completed frame has a verdict: no rule reads outside it (R32). -/
theorem Completes.exists_verdict (h : Completes s b f) (m : Bms) : ∃ v, frameVerdict f m = some v := by
  rw [frameVerdict, h.readU8_length, Option.bind_some]
  split
  next => exact ⟨_, rfl⟩
  next hfloor =>
    change ¬ lengthOf f ≤ 38 at hfloor
    change ∃ v, (readU32 f (lengthOf f)).bind _ = some v
    rw [h.readU32_trailer, Option.bind_some]
    split
    next =>
      obtain ⟨sample, mver, hextract⟩ := extract_of_le (f := f) (by rw [h.length_eq]; omega)
      exact ⟨_, by rw [hextract, Option.map_some]⟩
    next => exact ⟨_, rfl⟩

end Sys2Proof.Machine
end

section
/-! PROOF. One `PUSH` and one step, each inverted once (spec/41_synchronizer.md R62 to R67, spec/46_host_interface.md
R106 to R110): the statements about pushes and steps go through these case distinctions. -/

namespace Sys2Proof.Machine

variable {b : Byte} {s t : State}

/-! A byte outside Idle (R65, R66): the state in which the completion test runs. -/

/-- The byte appended, outputs cleared, and kept as `L` where it is the length byte. -/
def received (b : Byte) (s : State) : State :=
  { clearOutputs s with
    phase := .collecting
    buf := s.buf ++ [b]
    len := if s.phase = .lengthPending then b else s.len }

section
variable (b s)
@[simp] theorem received_phase : (received b s).phase = .collecting := rfl
@[simp] theorem received_prev1 : (received b s).prev1 = s.prev1 := rfl
@[simp] theorem received_prev2 : (received b s).prev2 = s.prev2 := rfl
@[simp] theorem received_buf : (received b s).buf = s.buf ++ [b] := rfl
@[simp] theorem received_bms : (received b s).bms = s.bms := rfl
@[simp] theorem received_snap : (received b s).snap = s.snap := rfl
@[simp] theorem received_diag : (received b s).diag = s.diag := rfl
@[simp] theorem received_response : (received b s).response = none := rfl
@[simp] theorem received_events : (received b s).events = [] := rfl
@[simp] theorem received_host : (received b s).host = s.host := rfl
end

theorem received_len_of_lengthPending (hphase : s.phase = .lengthPending) : (received b s).len = b := if_pos hphase

theorem received_len_of_collecting (hphase : s.phase = .collecting) : (received b s).len = s.len :=
  if_neg (by rw [hphase]; decide)

theorem received_of_collecting (hphase : s.phase = .collecting) : received b s = appendByte b (clearOutputs s) := by
  rw [received, if_neg (by rw [hphase]; decide), ← hphase]
  rfl

/-- The received byte makes the frame complete (R67). -/
def Finishes (b : Byte) (s : State) : Prop := s.buf.length + 1 = (received b s).len.toNat + 4

theorem finishes_iff_received : Finishes b s ↔ (received b s).buf.length = (received b s).len.toNat + 4 := by
  rw [Finishes, received_buf, List.length_append, List.length_singleton]

theorem exec_push_of_not_idle (hphase : s.phase ≠ .idle) : exec (.push b) s = completeCheck (received b s) := by
  cases hcase : s.phase with
  | idle => exact absurd hcase hphase
  | lengthPending =>
    have hreceived : { appendByte b (clearOutputs s) with len := b, phase := .collecting } = received b s := by
      rw [received, if_pos hcase]
      rfl
    rw [exec_push_of_lengthPending hcase, pushLength, hreceived]
  | collecting =>
    rw [exec_push_of_collecting hcase, pushCollect, received_of_collecting hcase]

theorem exec_push_of_unfinished (hphase : s.phase ≠ .idle) (hunfinished : ¬ Finishes b s) :
    exec (.push b) s = .next (received b s) := by
  rw [exec_push_of_not_idle hphase, completeCheck_of_incomplete (mt finishes_iff_received.mpr hunfinished)]

theorem exec_push_of_finishes (hphase : s.phase ≠ .idle) (hfinishes : Finishes b s) :
    exec (.push b) s =
      withRead (frameVerdict (s.buf ++ [b]) s.bms) fun v => .next (toIdle (v.apply (received b s))) := by
  rw [exec_push_of_not_idle hphase, completeCheck_of_complete (finishes_iff_received.mp hfinishes), frameDone_eq,
    received_buf, received_bms]
  cases frameVerdict (s.buf ++ [b]) s.bms <;> rfl

/-- Everything `PUSH b` can answer as a next state (R107): a rule of Idle, a byte kept, or a frame's verdict. -/
inductive PushResult (b : Byte) (s : State) : State → Prop
  | idle (hphase : s.phase = .idle) : PushResult b s (pushIdle b (clearOutputs s))
  | unfinished (hphase : s.phase ≠ .idle) (hunfinished : ¬ Finishes b s) : PushResult b s (received b s)
  | finished (v : Verdict) (hphase : s.phase ≠ .idle) (hfinishes : Finishes b s)
      (hverdict : frameVerdict (s.buf ++ [b]) s.bms = some v) :
      PushResult b s (toIdle (v.apply (received b s)))

theorem exec_push_eq_next_iff : exec (.push b) s = .next t ↔ PushResult b s t := by
  constructor
  · intro h
    by_cases hphase : s.phase = .idle
    · rw [exec_push_of_idle hphase] at h
      rw [← Host.Outcome.next.inj h]
      exact .idle hphase
    by_cases hfinishes : Finishes b s
    · rw [exec_push_of_finishes hphase hfinishes] at h
      obtain ⟨v, hverdict, h⟩ := withRead_eq_next.mp h
      rw [← Host.Outcome.next.inj h]
      exact .finished v hphase hfinishes hverdict
    · rw [exec_push_of_unfinished hphase hfinishes] at h
      rw [← Host.Outcome.next.inj h]
      exact .unfinished hphase hfinishes
  · rintro (hphase | ⟨hphase, hunfinished⟩ | ⟨v, hphase, hfinishes, hverdict⟩)
    · exact exec_push_of_idle hphase
    · exact exec_push_of_unfinished hphase hunfinished
    · rw [exec_push_of_finishes hphase hfinishes, hverdict, withRead_some]

/-! The rules of Idle keep all but phase, history and buffer (R62 to R64). -/

section
variable (b s)

theorem pushIdle_eq_update :
    ∃ phase p q buf, pushIdle b s = { s with phase := phase, prev1 := p, prev2 := q, buf := buf } := by
  rcases pushIdle_cases b s with ⟨-, -, -, h⟩ | ⟨-, -, h⟩ | h <;> exact ⟨_, _, _, _, h⟩

@[simp] theorem pushIdle_len : (pushIdle b s).len = s.len := by
  obtain ⟨_, _, _, _, h⟩ := pushIdle_eq_update b s; rw [h]
@[simp] theorem pushIdle_bms : (pushIdle b s).bms = s.bms := by
  obtain ⟨_, _, _, _, h⟩ := pushIdle_eq_update b s; rw [h]
@[simp] theorem pushIdle_snap : (pushIdle b s).snap = s.snap := by
  obtain ⟨_, _, _, _, h⟩ := pushIdle_eq_update b s; rw [h]
@[simp] theorem pushIdle_diag : (pushIdle b s).diag = s.diag := by
  obtain ⟨_, _, _, _, h⟩ := pushIdle_eq_update b s; rw [h]
@[simp] theorem pushIdle_response : (pushIdle b s).response = s.response := by
  obtain ⟨_, _, _, _, h⟩ := pushIdle_eq_update b s; rw [h]
@[simp] theorem pushIdle_events : (pushIdle b s).events = s.events := by
  obtain ⟨_, _, _, _, h⟩ := pushIdle_eq_update b s; rw [h]
@[simp] theorem pushIdle_host : (pushIdle b s).host = s.host := by
  obtain ⟨_, _, _, _, h⟩ := pushIdle_eq_update b s; rw [h]
end

/-- A push sees the host's list in no way (log 1). -/
theorem PushResult.host (h : PushResult b s t) : t.host = s.host := by
  cases h <;> simp

/-- A push answers no response (R106). -/
theorem PushResult.response (h : PushResult b s t) : t.response = none := by
  cases h <;> simp

/-- What a push writes besides the synchronizer's own state: nothing; the mismatch of a rejected frame (R71); slots and
snapshot of an accepted one (R72). -/
theorem PushResult.writes (h : PushResult b s t) :
    (t.bms = s.bms ∧ t.snap = s.snap ∧ t.diag = s.diag ∧ t.events = []) ∨
    (∃ c r, t.bms = s.bms ∧ t.snap = s.snap ∧ t.diag = some ⟨c, r⟩ ∧ t.events = [.crcMismatch c r]) ∨
    (∃ slots sn, s.phase ≠ .idle ∧ Finishes b s ∧ frameVerdict (s.buf ++ [b]) s.bms = some (.accepted slots sn) ∧
      t.bms = slots ∧ t.snap = some sn ∧ t.diag = s.diag ∧ t.events = []) := by
  cases h with
  | idle hphase => exact .inl (by simp)
  | unfinished hphase hunfinished => exact .inl ⟨rfl, rfl, rfl, rfl⟩
  | finished v hphase hfinishes hverdict =>
    cases v with
    | dropped => exact .inl ⟨rfl, rfl, rfl, rfl⟩
    | rejected c r => exact .inr (.inl ⟨c, r, rfl, rfl, rfl, rfl⟩)
    | accepted slots sn => exact .inr (.inr ⟨slots, sn, hphase, hfinishes, hverdict, rfl, rfl, rfl, rfl⟩)

/-! The step (R106). -/

/-- Everything a step can answer as a next state (R106, R125, R126). -/
inductive StepResult (s : State) : State → Prop
  | nothing (hhost : s.host = []) : StepResult s s
  | reset (rest : List HostInput) (hhost : s.host = .reset :: rest) :
      StepResult s (powerOnReset { s with host := rest })
  | push (b : Byte) (rest : List HostInput) (t : State) (hhost : s.host = pushWord b :: rest)
      (hpush : PushResult b { s with host := rest } t) : StepResult s t
  | query (rest : List HostInput) (hhost : s.host = .command 0x0100#16 :: rest) :
      StepResult s (respond (clearOutputs { s with host := rest }))
  | clear (rest : List HostInput) (hhost : s.host = .command 0x0200#16 :: rest) :
      StepResult s { clearOutputs { s with host := rest } with snap := none }

theorem stepResult_of_step (h : step s = .next t) : StepResult s t := by
  rcases fetch_cases s with ⟨hhost, -⟩ | ⟨rest, hhost, -⟩ | ⟨w, rest, i, hhost, hdecode, -⟩ |
    ⟨w, rest, why, hhost, hdecode, -⟩
  · rw [step, fetch, hhost] at h
    rw [← Host.Outcome.next.inj h]
    exact .nothing hhost
  · rw [step_of_reset hhost] at h
    rw [← Host.Outcome.next.inj h]
    exact .reset rest hhost
  · rw [step_of_decodeCommand_ok hhost hdecode] at h
    rcases decodeCommand_cases w with ⟨hlt, hd⟩ | ⟨rfl, hd⟩ | ⟨rfl, hd⟩ | ⟨-, why, hd⟩ <;>
      cases hd.symm.trans hdecode
    · rw [← zero_append_fieldData hlt] at hhost
      exact .push _ rest t hhost (exec_push_eq_next_iff.mp h)
    · rw [exec_query] at h
      rw [← Host.Outcome.next.inj h]
      exact .query rest hhost
    · rw [exec_clear] at h
      rw [← Host.Outcome.next.inj h]
      exact .clear rest hhost
  · rw [step_of_decodeCommand_error hhost hdecode] at h
    cases h

end Sys2Proof.Machine
end

section
/-! PROOF. The machine's invariant (spec/10_state.md section 2, spec/45_aggregator.md sections 1 and 3): every push, and
so every step, keeps each of its parts. -/

namespace Sys2Proof.Machine

variable {b : Byte} {s t : State}

/-! The synchronizer's invariants (R19). -/

theorem syncInv_of_idle (hphase : s.phase = .idle) (hbuf : s.buf = []) : SyncInv s :=
  ⟨fun _ => hbuf, fun h => absurd (hphase.symm.trans h) nofun, fun h => absurd (hphase.symm.trans h) nofun⟩

theorem syncInv_startFrame : SyncInv (startFrame s) := ⟨nofun, fun _ => ⟨rfl, rfl, rfl⟩, nofun⟩

theorem syncInv_pushIdle (hphase : s.phase = .idle) (hbuf : s.buf = []) : SyncInv (pushIdle b s) := by
  rcases pushIdle_cases b s with ⟨-, -, -, h⟩ | ⟨-, -, h⟩ | h <;> rw [h]
  · exact syncInv_startFrame
  · exact syncInv_of_idle hphase hbuf
  · exact syncInv_of_idle hphase hbuf

/-- Under the invariants a byte outside Idle stands behind the marker, after or as the length byte `L` that `len` then
holds, and makes the buffer no longer than `L + 4`. -/
theorem received_header (hinv : SyncInv s) (hphase : s.phase ≠ .idle) :
    3 ≤ s.buf.length ∧ s.buf.take 3 = Config.marker ∧ (s.buf ++ [b])[3]? = some (received b s).len ∧
    s.buf.length + 1 ≤ (received b s).len.toNat + 4 ∧ s.prev1 = 0#8 ∧ s.prev2 = 0#8 := by
  obtain ⟨-, hpending, hcollecting⟩ := hinv
  cases hcase : s.phase with
  | idle => exact absurd hcase hphase
  | lengthPending =>
    obtain ⟨hbuf, hprev1, hprev2⟩ := hpending hcase
    rw [hbuf, received_len_of_lengthPending hcase]
    exact ⟨by decide, rfl, rfl, Nat.le_add_left 4 b.toNat, hprev1, hprev2⟩
  | collecting =>
    obtain ⟨hlength, hmarker, hlenByte, hbound, hprev1, hprev2⟩ := hcollecting hcase
    rw [received_len_of_collecting hcase, List.getElem?_append_left hlength]
    exact ⟨by omega, hmarker, hlenByte, hbound, hprev1, hprev2⟩

theorem syncInv_received (hinv : SyncInv s) (hphase : s.phase ≠ .idle) (hunfinished : ¬ Finishes b s) :
    SyncInv (received b s) := by
  obtain ⟨hlength, hmarker, hlenByte, hbound, hprev1, hprev2⟩ := received_header (b := b) hinv hphase
  refine ⟨nofun, nofun, fun _ => ⟨?_, ?_, hlenByte, ?_, hprev1, hprev2⟩⟩ <;>
    simp only [received_buf, List.length_append, List.length_singleton]
  · omega
  · rw [List.take_append_of_le_length hlength, hmarker]
  · exact lt_of_le_of_ne hbound hunfinished

theorem PushResult.syncInv (h : PushResult b s t) (hinv : SyncInv s) : SyncInv t := by
  cases h with
  | idle hphase => exact syncInv_pushIdle hphase (hinv.1 hphase)
  | unfinished hphase hunfinished => exact syncInv_received hinv hphase hunfinished
  | finished v => exact syncInv_of_idle rfl rfl

/-! The form of the partial-marker memory (R16). -/

theorem historyInv_pushIdle (b : Byte) (s : State) : HistoryInv (pushIdle b s) := by
  rcases pushIdle_cases b s with ⟨-, -, -, h⟩ | ⟨-, -, h⟩ | h <;> rw [h]
  · exact .inl rfl
  · exact .inr ⟨rfl, rfl⟩
  · exact .inl rfl

theorem PushResult.historyInv (h : PushResult b s t) (hinv : HistoryInv s) : HistoryInv t := by
  cases h with
  | idle => exact historyInv_pushIdle b (clearOutputs s)
  | unfinished => exact hinv
  | finished v => simpa [HistoryInv] using hinv

/-! A composed snapshot is a map of exact rationals (R99, R104). -/

theorem bmsKeyUnit_of_mem_keys_extract {f : Frame} {sample : Snapshot} {mver : Nat}
    (h : extract f = some (sample, mver)) {k : Key} (hk : k ∈ sample.map Prod.fst) : bmsKeyUnit k = none := by
  have hrows : ∀ r ∈ fieldTable, bmsKeyUnit r.key = none := by decide
  obtain ⟨rfl, -⟩ := extract_eq_some h
  rw [List.map_map, List.mem_map] at hk
  obtain ⟨r, hr, rfl⟩ := hk
  exact hrows r (List.mem_of_mem_filter hr)

theorem div_pos_of_extract {f : Frame} {sample : Snapshot} {mver : Nat} (h : extract f = some (sample, mver)) :
    ∀ e ∈ sample, 0 < e.2.div := by
  have hrows : ∀ r ∈ fieldTable, 0 < r.div := by decide
  obtain ⟨rfl, -⟩ := extract_eq_some h
  intro e he
  obtain ⟨r, hr, rfl⟩ := List.mem_map.mp he
  exact hrows r (List.mem_of_mem_filter hr)

theorem div_pos_of_mem_perSlot {u : UnitId} {m : BmsUnit} : ∀ e ∈ perSlot u m, 0 < e.2.div := by
  intro e he
  simp only [perSlot, List.mem_append, List.mem_map, List.mem_singleton] at he
  obtain ⟨i, -, rfl⟩ | ⟨k, -, rfl⟩ | rfl := he <;> simp

/-- The average's divisor counts the valid cells, and there is at least one (R102). -/
theorem div_pos_of_mem_summaries {u : UnitId} {m : BmsUnit} : ∀ e ∈ summaries u m, 0 < e.2.div := by
  rw [summaries]
  split
  · exact nofun
  · simp [summariesOf]

theorem snapshotWf_unitPart (u : UnitId) (m : BmsUnit) : SnapshotWf (unitPart u m) :=
  ⟨nodup_keys_unitPart u m, List.forall_mem_append.mpr ⟨div_pos_of_mem_perSlot, div_pos_of_mem_summaries⟩⟩

theorem SnapshotWf.append {m n : Snapshot} (hm : SnapshotWf m) (hn : SnapshotWf n)
    (hdisjoint : (m.map Prod.fst).Disjoint (n.map Prod.fst)) : SnapshotWf (m ++ n) := by
  refine ⟨?_, List.forall_mem_append.mpr ⟨hm.2, hn.2⟩⟩
  rw [List.map_append]
  exact hm.1.append hn.1 hdisjoint

theorem disjoint_keys_unitParts (m n : BmsUnit) :
    ((unitPart .one m).map Prod.fst).Disjoint ((unitPart .two n).map Prod.fst) := fun _ hone htwo =>
  absurd ((bmsKeyUnit_of_mem_keys_unitPart _ m hone).symm.trans (bmsKeyUnit_of_mem_keys_unitPart _ n htwo)) nofun

theorem disjoint_keys_extract_unitPart {f : Frame} {sample : Snapshot} {mver : Nat}
    (h : extract f = some (sample, mver)) (u : UnitId) (m : BmsUnit) :
    (sample.map Prod.fst).Disjoint ((unitPart u m).map Prod.fst) := fun _ hsample hunit =>
  absurd ((bmsKeyUnit_of_mem_keys_extract h hsample).symm.trans (bmsKeyUnit_of_mem_keys_unitPart u m hunit)) nofun

/-- What the aggregator composes of a frame's Sample and any slots is a map of exact rationals. -/
theorem snapshotWf_compose {f : Frame} {sample : Snapshot} {mver : Nat} (h : extract f = some (sample, mver))
    (m : Bms) : SnapshotWf (compose sample mver m) := by
  have hsample : SnapshotWf sample := ⟨nodup_keys_of_extract h, div_pos_of_extract h⟩
  rw [compose]
  split
  · have hunits := (snapshotWf_unitPart .one m.unit1).append (snapshotWf_unitPart .two m.unit2)
      (disjoint_keys_unitParts _ _)
    refine hsample.append hunits ?_
    rw [List.map_append, List.disjoint_append_right]
    exact ⟨disjoint_keys_extract_unitPart h .one _, disjoint_keys_extract_unitPart h .two _⟩
  · exact hsample

theorem PushResult.snapInv (h : PushResult b s t) (hinv : SnapInv s) : SnapInv t := by
  refine ⟨?_, by rw [h.response]; exact nofun⟩
  obtain ⟨-, hsnap, -⟩ | ⟨c, r, -, hsnap, -⟩ | ⟨slots, sn, -, -, hverdict, -, hsnap, -⟩ := h.writes <;> rw [hsnap]
  · exact hinv.1
  · exact hinv.1
  · obtain ⟨-, -, sample, mver, hextract, -, rfl⟩ := frameVerdict_eq_accepted hverdict
    rintro m ⟨⟩
    exact snapshotWf_compose hextract slots

/-! The events of an operation (R114, R117). -/

theorem eventInv_of_nil (h : s.events = []) : EventInv s := by simp [EventInv, h]

theorem PushResult.eventInv (h : PushResult b s t) : EventInv t := by
  obtain ⟨-, -, -, hevents⟩ | ⟨c, r, -, -, hdiag, hevents⟩ | ⟨slots, sn, -, -, -, -, -, -, hevents⟩ := h.writes
  · exact eventInv_of_nil hevents
  · simp [EventInv, hevents, hdiag]
  · exact eventInv_of_nil hevents

/-! The invariant over a step. -/

theorem PushResult.machineInv (h : PushResult b s t) (hinv : MachineInv s) : MachineInv t := by
  obtain ⟨hsync, hhistory, hsnap, -⟩ := hinv
  exact ⟨h.syncInv hsync, h.historyInv hhistory, h.snapInv hsnap, h.eventInv⟩

theorem machineInv_reset (ops : List HostInput) : MachineInv { State.reset with host := ops } :=
  ⟨syncInv_of_idle rfl rfl, .inl rfl, ⟨nofun, nofun⟩, eventInv_of_nil rfl⟩

theorem StepResult.machineInv (h : StepResult s t) (hinv : MachineInv s) : MachineInv t := by
  obtain ⟨hsync, hhistory, ⟨hsnap, hresponse⟩, hevents⟩ := hinv
  cases h with
  | nothing => exact ⟨hsync, hhistory, ⟨hsnap, hresponse⟩, hevents⟩
  | reset rest => exact machineInv_reset rest
  | push b rest _ _ hpush =>
    exact hpush.machineInv (s := { s with host := rest }) ⟨hsync, hhistory, ⟨hsnap, hresponse⟩, hevents⟩
  | query =>
    refine ⟨hsync, hhistory, ⟨hsnap, ?_⟩, eventInv_of_nil rfl⟩
    rintro r ⟨⟩
    exact hsnap
  | clear => exact ⟨hsync, hhistory, ⟨nofun, nofun⟩, eventInv_of_nil rfl⟩

end Sys2Proof.Machine

namespace Sys2Proof.Proofs

open Sys2Proof.Machine

/-- Settles O55: every kind of step keeps every part. -/
theorem stepKeepsInvariant : Obligations.StepKeepsInvariant :=
  fun _ _ hinv hstep => (stepResult_of_step hstep).machineInv hinv

/-- Settles O56: Idle with an empty buffer, no history, no snapshot and no output. -/
theorem resetHasInvariant : Obligations.ResetHasInvariant := machineInv_reset

end Sys2Proof.Proofs
end

section
/-! PROOF. Steps and the host's list (spec/46_host_interface.md R106, spec/60_exceptions.md R115, R125): what a step
takes, what is refused, what it may change; and the reset values. -/

namespace Sys2Proof.Machine

variable {b : Byte} {s t : State} {f : Frame}

theorem step_of_nil (h : s.host = []) : step s = .next s := by
  simp only [step, fetch, h]

theorem StepResult.host (h : StepResult s t) : t.host = s.host.tail := by
  cases h with
  | nothing hhost => rw [hhost, List.tail_nil]
  | reset rest hhost => rw [hhost, List.tail_cons]; rfl
  | push b rest _ hhost hpush => rw [hhost, List.tail_cons, hpush.host]
  | query rest hhost => rw [hhost, List.tail_cons]; rfl
  | clear rest hhost => rw [hhost, List.tail_cons]; rfl

/-- A refused step has a reserved word before it (R52, R115). -/
theorem exists_reserved_of_step_refused {r : Refusal} (h : step s = .refused r) :
    ∃ w why rest, s.host = .command w :: rest ∧ decodeCommand w = .error why ∧ r = .reservedCommand w why := by
  rcases fetch_cases s with ⟨hhost, -⟩ | ⟨rest, hhost, -⟩ | ⟨w, rest, i, hhost, hdecode, -⟩ |
    ⟨w, rest, why, hhost, hdecode, -⟩
  · cases (step_of_nil hhost).symm.trans h
  · cases (step_of_reset hhost).symm.trans h
  · exact absurd ((step_of_decodeCommand_ok hhost hdecode).symm.trans h) (exec_ne_refused _ i r)
  · refine ⟨w, why, rest, hhost, hdecode, ?_⟩
    exact (Host.Outcome.refused.inj ((step_of_decodeCommand_error hhost hdecode).symm.trans h)).symm

/-! Frames and pushes (R65 to R67). -/

/-- The push whose byte makes the frame complete is one that completes it. -/
theorem Finishes.completes (hinv : SyncInv s) (hphase : s.phase ≠ .idle) (h : Finishes b s) :
    Completes s b (s.buf ++ [b]) := by
  refine ⟨hinv, rfl, ?_⟩
  cases hcase : s.phase with
  | idle => exact absurd hcase hphase
  | lengthPending =>
    obtain ⟨-, hpending, -⟩ := hinv
    obtain ⟨hbuf, -⟩ := hpending hcase
    rw [Finishes, hbuf, received_len_of_lengthPending hcase] at h
    have hmarker : Config.marker.length = 3 := rfl
    have hzero : b.toNat = 0 := by omega
    exact .inr ⟨rfl, BitVec.eq_of_toNat_eq hzero⟩
  | collecting =>
    rw [Finishes, received_len_of_collecting hcase] at h
    exact .inl ⟨rfl, by rw [List.length_append, List.length_singleton, h]⟩

/-- Under the invariants no push stops (R32, R107). -/
theorem exists_pushResult (hinv : SyncInv s) (b : Byte) : ∃ t, PushResult b s t := by
  by_cases hphase : s.phase = .idle
  · exact ⟨_, .idle hphase⟩
  by_cases hfinishes : Finishes b s
  · obtain ⟨v, hverdict⟩ := (hfinishes.completes hinv hphase).exists_verdict s.bms
    exact ⟨_, .finished v hphase hfinishes hverdict⟩
  · exact ⟨_, .unfinished hphase hfinishes⟩

/-- A push that publishes has completed an accepted frame (R72). -/
theorem accepted_of_verdict {slots : Bms} {sn : Snapshot} (hinv : SyncInv s) (hphase : s.phase ≠ .idle)
    (hfinishes : Finishes b s) (hverdict : frameVerdict (s.buf ++ [b]) s.bms = some (.accepted slots sn)) :
    Accepted s b (s.buf ++ [b]) :=
  have ⟨hfloor, hcrc, _⟩ := frameVerdict_eq_accepted hverdict
  ⟨hfinishes.completes hinv hphase, hfloor, hcrc⟩

/-- A push keeps slots and snapshot, or completes an accepted frame and publishes, and then changes the slots only where
the gate of the sub-packet holds (R72, R91). -/
theorem PushResult.accepted_or_kept (h : PushResult b s t) (hinv : SyncInv s) :
    (t.bms = s.bms ∧ t.snap = s.snap) ∨
    (∃ f, Accepted s b f ∧ t.snap ≠ none ∧ (t.bms ≠ s.bms → 5 ≤ mverAt f ∧ 46 < f.length)) := by
  obtain ⟨hbms, hsnap, -⟩ | ⟨c, r, hbms, hsnap, -⟩ | ⟨slots, sn, hphase, hfinishes, hverdict, hbms, hsnap, -⟩ :=
    h.writes
  · exact .inl ⟨hbms, hsnap⟩
  · exact .inl ⟨hbms, hsnap⟩
  · have haccepted := accepted_of_verdict hinv hphase hfinishes hverdict
    have ⟨hcompletes, hfloor, _⟩ := haccepted
    refine .inr ⟨_, haccepted, by rw [hsnap]; exact nofun, fun hchanged => ?_⟩
    obtain ⟨-, -, sample, mver, hextract, hslots, -⟩ := frameVerdict_eq_accepted hverdict
    rw [← mver_of_extract hextract (by rw [hcompletes.length_eq]; omega)]
    by_contra hgate
    rw [frameSlots, if_neg hgate] at hslots
    exact hchanged (hbms.trans hslots)

/-- The buffer holds less than the frame it collects, and that has at most `L + 4` bytes. -/
theorem length_buf_le_of_syncInv (h : SyncInv s) : s.buf.length ≤ 258 := by
  obtain ⟨hidle, hpending, hcollecting⟩ := h
  cases hphase : s.phase with
  | idle => simp [hidle hphase]
  | lengthPending => simp [hpending hphase, Config.marker]
  | collecting =>
    obtain ⟨-, -, -, hbound, -⟩ := hcollecting hphase
    have := s.len.isLt
    omega

end Sys2Proof.Machine

namespace Sys2Proof.Proofs

open Sys2Proof.Machine

/-- Settles O7: no instruction's meaning is refused, so the word before the step is a reserved one. -/
theorem onlyReservedWordsAreRefused : Obligations.OnlyReservedWordsAreRefused :=
  fun _ _ h => exists_reserved_of_step_refused h

/-- Settles O10: the kinds of step, each of which takes its own operation. -/
theorem stepTakesOneOperation : Obligations.StepTakesOneOperation :=
  fun _ _ h => (stepResult_of_step h).host

/-- Settles O21: the push inverted has a result in every case, and each keeps the invariants and the list. -/
theorem everyByteIsAccepted : Obligations.EveryByteIsAccepted := by
  intro s b hinv
  obtain ⟨t, hpush⟩ := exists_pushResult hinv b
  exact ⟨t, exec_push_eq_next_iff.mpr hpush, hpush.syncInv hinv, hpush.host⟩

/-- Settles O20: the completed frame has a verdict, and after its update the synchronizer returns to Idle. -/
theorem completedFrameReturnsToIdle : Obligations.CompletedFrameReturnsToIdle := by
  intro s b f h
  obtain ⟨v, hverdict⟩ := h.exists_verdict s.bms
  have hexec : exec (.push b) s = .next (toIdle (v.apply (collected f s))) := by
    rw [h.exec_push, frameDone_eq, collected_buf, collected_bms, hverdict]
    rfl
  have hhistory : s.prev1 = 0#8 ∧ s.prev2 = 0#8 := by
    obtain ⟨⟨-, hpending, hcollecting⟩, -, ⟨hphase, -⟩ | ⟨hphase, -⟩⟩ := h
    · obtain ⟨-, -, -, -, hprev⟩ := hcollecting hphase
      exact hprev
    · obtain ⟨-, hprev⟩ := hpending hphase
      exact hprev
  obtain ⟨hprev1, hprev2⟩ := hhistory
  refine ⟨_, hexec, rfl, rfl, ?_, ?_, ?_, ?_, ?_⟩ <;> simp [collected, hprev1, hprev2]

/-- Settles O22: a push that writes anything completes a frame. -/
theorem bytesOfUnfinishedFramesAreSilent : Obligations.BytesOfUnfinishedFramesAreSilent := by
  intro s b hinv hnone
  obtain ⟨t, hpush⟩ := exists_pushResult hinv b
  refine ⟨t, exec_push_eq_next_iff.mpr hpush, ?_⟩
  cases hpush with
  | idle => simp
  | unfinished => exact ⟨rfl, rfl, rfl, rfl, rfl⟩
  | finished v hphase hfinishes => exact absurd (hfinishes.completes hinv hphase) (hnone _)

/-- Settles O27: the three kinds of writes. -/
theorem pushChangesOneGroup : Obligations.PushChangesOneGroup := by
  intro s t b h
  obtain ⟨-, -, hdiag, hevents⟩ | ⟨c, r, hbms, hsnap, -⟩ | ⟨slots, sn, -, -, -, -, -, hdiag, hevents⟩ :=
    (exec_push_eq_next_iff.mp h).writes
  · exact .inl ⟨hdiag, hevents⟩
  · exact .inr ⟨hbms, hsnap⟩
  · exact .inl ⟨hdiag, hevents⟩

/-- Settles O40: of the operations only the reset input and an accepted frame write the slots. -/
theorem slotsChangeOnlyBySubPacketOrReset : Obligations.SlotsChangeOnlyBySubPacketOrReset := by
  intro s t hinv hstep hchanged
  cases stepResult_of_step hstep with
  | nothing => exact absurd rfl hchanged
  | reset rest hhost => exact .inl ⟨rest, hhost⟩
  | push b rest _ hhost hpush =>
    obtain ⟨hkept, -⟩ | ⟨f, haccepted, -, hgate⟩ := hpush.accepted_or_kept hinv
    · exact absurd hkept hchanged
    · obtain ⟨hmver, hlength⟩ := hgate hchanged
      exact .inr ⟨b, f, ⟨rest, hhost⟩, haccepted, hmver, hlength⟩
  | query => exact absurd rfl hchanged
  | clear => exact absurd rfl hchanged

/-- Settles O47: of the operations only the reset input, `CLEAR` and an accepted frame write the snapshot. -/
theorem snapshotChangesOnlyByFrameClearOrReset : Obligations.SnapshotChangesOnlyByFrameClearOrReset := by
  intro s t hinv hstep hchanged
  cases stepResult_of_step hstep with
  | nothing => exact absurd rfl hchanged
  | reset rest hhost => exact .inl ⟨rest, hhost⟩
  | push b rest _ hhost hpush =>
    obtain ⟨-, hkept⟩ | ⟨f, haccepted, hpublished, -⟩ := hpush.accepted_or_kept hinv
    · exact absurd hkept hchanged
    · exact .inr (.inr ⟨b, f, ⟨rest, hhost⟩, haccepted, hpublished⟩)
  | query => exact absurd rfl hchanged
  | clear rest hhost => exact .inr (.inl ⟨⟨rest, hhost⟩, rfl⟩)

/-- Settles O48: of the operations only the reset input and a rejected frame write the register. -/
theorem diagChangesOnlyByMismatchOrReset : Obligations.DiagChangesOnlyByMismatchOrReset := by
  intro s t hstep hchanged
  cases stepResult_of_step hstep with
  | nothing => exact absurd rfl hchanged
  | reset rest hhost => exact .inl ⟨rest, hhost⟩
  | push b rest _ hhost hpush =>
    obtain ⟨-, -, hdiag, -⟩ | ⟨c, r, -, -, hdiag, hevents⟩ | ⟨slots, sn, -, -, -, -, -, hdiag, -⟩ := hpush.writes
    · exact absurd hdiag hchanged
    · exact .inr ⟨c, r, hdiag, hevents⟩
    · exact absurd hdiag hchanged
  | query => exact absurd rfl hchanged
  | clear => exact absurd rfl hchanged

/-- Settles O57: by induction on the run, with the machine's invariant. -/
theorem reachableStatesAreSynchronized : Obligations.ReachableStatesAreSynchronized := by
  intro s h
  have hinv : MachineInv s := by
    induction h with
    | reset ops => exact machineInv_reset ops
    | step s t _ hstep ih => exact (stepResult_of_step hstep).machineInv ih
  exact ⟨hinv.1, length_buf_le_of_syncInv hinv.1⟩

/-- Settles O58: the only operation that reads a frame is a push, and under the invariants each has a next state. -/
theorem noStepFaults : Obligations.NoStepFaults := by
  intro s hinv r hfault
  rcases fetch_cases s with ⟨hhost, -⟩ | ⟨rest, hhost, -⟩ | ⟨w, rest, i, hhost, hdecode, -⟩ |
    ⟨w, rest, why, hhost, hdecode, -⟩
  · cases (step_of_nil hhost).symm.trans hfault
  · cases (step_of_reset hhost).symm.trans hfault
  · rw [step_of_decodeCommand_ok hhost hdecode] at hfault
    rcases decodeCommand_cases w with ⟨-, hd⟩ | ⟨-, hd⟩ | ⟨-, hd⟩ | ⟨-, why, hd⟩ <;> cases hd.symm.trans hdecode
    · obtain ⟨t, hpush⟩ := exists_pushResult (s := { s with host := rest }) hinv (fieldData w)
      cases (exec_push_eq_next_iff.mpr hpush).symm.trans hfault
    · cases hfault
    · cases hfault
  · cases (step_of_decodeCommand_error hhost hdecode).symm.trans hfault

/-- Settles O5: the step's case on a word that decodes. -/
theorem stepRunsHostCommand : Obligations.StepRunsHostCommand :=
  fun _ _ _ _ => step_of_decodeCommand_ok

/-- Settles O9: the step's case on an empty list. -/
theorem noOperationChangesNothing : Obligations.NoOperationChangesNothing :=
  fun _ => step_of_nil

/-- Settles O19: the byte is received and the completion test fails. -/
theorem pushInsideFrameAppends : Obligations.PushInsideFrameAppends := by
  intro s b hphase hlength
  have hnotIdle : s.phase ≠ .idle := by rw [hphase]; decide
  have hunfinished : ¬ Finishes b s := by rwa [Finishes, received_len_of_collecting hphase]
  rw [exec_push_of_unfinished hnotIdle hunfinished, received_of_collecting hphase]
  rfl

/-- Settles O12: the reset state's fields, its slots those of the zero unit. -/
theorem resetStateValues : Obligations.ResetStateValues :=
  have hunit (u : UnitId) : bmsUnit State.reset.bms u = BmsUnit.zero := by cases u <;> rfl
  ⟨rfl, rfl, rfl, rfl, rfl, fun u i => by rw [hunit, BmsUnit.zero_cell], fun u k => by rw [hunit, BmsUnit.zero_temp],
    fun u => by rw [hunit, BmsUnit.zero_cur], rfl, rfl⟩

end Sys2Proof.Proofs
end

section
/-! PROOF. Chunks (spec/46_host_interface.md R108) and the snapshot's independence (spec/70_reset_and_hazards.md section
2): a push reads neither the host's list nor the snapshot register, and a chunk's parts follow one another. -/

namespace Sys2Proof.Machine

variable {b : Byte} {bs cs : List Byte} {s t : State} {f : Frame}

/-! What a push does not read: the host's list (log 1) and the snapshot register. -/

theorem pushIdle_withHost (b : Byte) (s : State) (ops : List HostInput) :
    pushIdle b { s with host := ops } = { pushIdle b s with host := ops } := by
  simp only [pushIdle]
  split_ifs <;> rfl

theorem pushIdle_withSnap (b : Byte) (s : State) (old : Option Snapshot) :
    pushIdle b { s with snap := old } = { pushIdle b s with snap := old } := by
  simp only [pushIdle]
  split_ifs <;> rfl

theorem Verdict.apply_withHost (v : Verdict) (s : State) (ops : List HostInput) :
    v.apply { s with host := ops } = { v.apply s with host := ops } := by
  cases v <;> rfl

/-- With another list pending, a push gives the same outcome over that list. -/
theorem exec_push_withHost (b : Byte) (s : State) (ops : List HostInput) :
    exec (.push b) { s with host := ops } = andThen (exec (.push b) s) fun t => .next { t with host := ops } := by
  by_cases hphase : s.phase = .idle
  · rw [exec_push_of_idle hphase, exec_push_of_idle (s := { s with host := ops }) hphase, andThen_next,
      ← pushIdle_withHost]
    rfl
  by_cases hfinishes : Finishes b s
  · rw [exec_push_of_finishes hphase hfinishes, exec_push_of_finishes (s := { s with host := ops }) hphase hfinishes]
    change withRead (frameVerdict (s.buf ++ [b]) s.bms) _ = _
    cases frameVerdict (s.buf ++ [b]) s.bms with
    | none => rfl
    | some v => exact congrArg (fun u => Host.Outcome.next (toIdle u)) (v.apply_withHost (received b s) ops)
  · rw [exec_push_of_unfinished hphase hfinishes, andThen_next]
    exact exec_push_of_unfinished (s := { s with host := ops }) hphase hfinishes

/-- With another snapshot in the register, a push gives the same state but for that register. -/
theorem PushResult.withSnap (h : PushResult b s t) (old : Option Snapshot) :
    ∃ y, PushResult b { s with snap := old } { t with snap := y } := by
  cases h with
  | idle hphase =>
    refine ⟨old, ?_⟩
    rw [← pushIdle_withSnap b (clearOutputs s) old]
    exact .idle (s := { s with snap := old }) hphase
  | unfinished hphase hunfinished => exact ⟨old, .unfinished hphase hunfinished⟩
  | finished v hphase hfinishes hverdict =>
    have hresult := PushResult.finished (s := { s with snap := old }) v hphase hfinishes hverdict
    cases v with
    | dropped => exact ⟨old, hresult⟩
    | rejected c r => exact ⟨old, hresult⟩
    | accepted slots sn => exact ⟨some sn, hresult⟩

/-! Sequencing of chunks. -/

theorem pushChunk_cons (b : Byte) (bs : List Byte) (s : State) :
    pushChunk (b :: bs) s = andThen (exec (.push b) s) (pushChunk bs) := rfl

theorem pushChunk_singleton (b : Byte) (s : State) : pushChunk [b] s = exec (.push b) s := by
  rw [pushChunk_cons]
  cases exec (.push b) s <;> rfl

theorem pushChunk_append (bs cs : List Byte) (s : State) :
    pushChunk (bs ++ cs) s = andThen (pushChunk bs s) (pushChunk cs) := by
  induction bs generalizing s with
  | nil => rfl
  | cons b bs ih =>
    rw [List.cons_append, pushChunk_cons, pushChunk_cons, andThen_assoc]
    exact congrArg _ (funext ih)

theorem syncInv_of_pushChunk (hinv : SyncInv s) (h : pushChunk bs s = .next t) : SyncInv t := by
  induction bs generalizing s with
  | nil => rwa [← Host.Outcome.next.inj h]
  | cons b bs ih =>
    rw [pushChunk_cons] at h
    obtain ⟨u, hpush, hrest⟩ := andThen_eq_next.mp h
    exact ih ((exec_push_eq_next_iff.mp hpush).syncInv hinv) hrest

/-! Runs of steps. -/

theorem step_of_pushWord (b : Byte) (s : State) (rest : List HostInput) :
    step { s with host := pushWord b :: rest } = exec (.push b) { s with host := rest } :=
  step_of_decodeCommand_ok rfl (decodeCommand_zero_append b)

/-- `k` steps of the model (`Host.Core.run`), over the model's own names of state and outcome. -/
def runSteps (k : Nat) (s : State) : Host.Outcome State Fault Refusal := Host.Core.run Sys2Proof.core k s

theorem runSteps_succ (k : Nat) (s : State) : runSteps (k + 1) s = andThen (step s) (runSteps k) := by
  change @Host.Core.run Sys2Proof.core (k + 1) s = _
  cases h : step s
  all_goals
    have hcore : Sys2Proof.core.step s = _ := h
    simp only [Host.Core.run, hcore]
    rfl

/-- By bytes; the list that a push carries along is no matter to it. -/
theorem runSteps_pushWords (bs : List Byte) (s : State) (rest : List HostInput) :
    runSteps bs.length { s with host := bs.map pushWord ++ rest } = pushChunk bs { s with host := rest } := by
  induction bs generalizing s with
  | nil => rfl
  | cons b bs ih =>
    rw [List.map_cons, List.cons_append, List.length_cons, runSteps_succ, step_of_pushWord, pushChunk_cons,
      exec_push_withHost, exec_push_withHost b s rest, andThen_assoc, andThen_assoc]
    exact congrArg _ (funext ih)

end Sys2Proof.Machine

namespace Sys2Proof.Proofs

open Sys2Proof.Machine

/-- Settles O49: chunk by chunk. -/
theorem chunkBoundariesDoNotMatter : Obligations.ChunkBoundariesDoNotMatter := by
  intro cs
  induction cs with
  | nil => exact fun _ => rfl
  | cons c cs ih =>
    intro s
    rw [List.flatten_cons, pushChunk_append, pushChunks]
    exact congrArg _ (funext ih)

/-- Settles O11: the steps of the model, byte by byte. -/
theorem runOfPushWordsIsChunk : Obligations.RunOfPushWordsIsChunk := runSteps_pushWords

/-- Settles O46: byte by byte, with whatever snapshot the register has come to hold. -/
theorem snapshotNeverInfluencesDecoding : Obligations.SnapshotNeverInfluencesDecoding := by
  intro bs
  induction bs with
  | nil =>
    intro s t old h
    rw [← Host.Outcome.next.inj h]
    exact ⟨old, rfl⟩
  | cons b bs ih =>
    intro s t old h
    rw [pushChunk_cons] at h
    obtain ⟨u, hpush, hrest⟩ := andThen_eq_next.mp h
    obtain ⟨y, hpush'⟩ := (exec_push_eq_next_iff.mp hpush).withSnap old
    obtain ⟨z, hrest'⟩ := ih u t y hrest
    exact ⟨z, by rw [pushChunk_cons, exec_push_eq_next_iff.mpr hpush', andThen_next, hrest']⟩

end Sys2Proof.Proofs
end

section
/-! PROOF. Runs of bytes through the synchronizer (spec/41_synchronizer.md section 4): a frame is collected byte by byte
up to the push that completes it, whatever its bytes are. -/

namespace Sys2Proof.Machine

variable {b : Byte} {bs body g : List Byte} {s t : State} {f : Frame}

/-! A frame being collected behind its header (R66). -/

/-- The bytes `g` begin with a whole header: the marker and a length byte (R41). -/
structure HasHeader (g : Frame) : Prop where
  marker : g.take 3 = Config.marker
  length_ge : 4 ≤ g.length

theorem hasHeader_marker_cons (l : Byte) (body : Frame) : HasHeader (Config.marker ++ l :: body) :=
  ⟨rfl, Nat.le_add_left 4 body.length⟩

theorem lengthByte_marker_cons (l : Byte) (body : Frame) : lengthByte (Config.marker ++ l :: body) = l := rfl

theorem HasHeader.append (h : HasHeader g) (bs : Frame) : HasHeader (g ++ bs) := by
  obtain ⟨hmarker, hlength⟩ := h
  exact ⟨by rw [List.take_append_of_le_length (by omega), hmarker], by rw [List.length_append]; omega⟩

/-- The bytes behind a header leave its length byte. -/
theorem HasHeader.lengthByte_append (h : HasHeader g) (bs : Frame) : lengthByte (g ++ bs) = lengthByte g := by
  rw [lengthByte, lengthByte, List.getD_append _ _ _ _ h.length_ge]

theorem HasHeader.lengthOf_append (h : HasHeader g) (bs : Frame) : lengthOf (g ++ bs) = lengthOf g := by
  rw [lengthOf, lengthOf, h.lengthByte_append]

theorem finishes_collected_iff : Finishes b (collected g s) ↔ g.length + 1 = lengthOf g + 4 := Iff.rfl

theorem received_collected (h : HasHeader g) : received b (collected g s) = collected (g ++ [b]) s := by
  rw [collected, collected, h.lengthByte_append]
  rfl

/-- Bytes that do not make the frame complete are collected. -/
theorem pushChunk_collected (h : HasHeader g) (hlength : g.length + bs.length < lengthOf g + 4) :
    pushChunk bs (collected g s) = .next (collected (g ++ bs) s) := by
  induction bs generalizing g with
  | nil => rw [List.append_nil]; rfl
  | cons b bs ih =>
    rw [List.length_cons] at hlength
    have hunfinished : ¬ Finishes b (collected g s) := by rw [finishes_collected_iff]; omega
    have hrest : (g ++ [b]).length + bs.length < lengthOf (g ++ [b]) + 4 := by
      rw [h.lengthOf_append, List.length_append, List.length_singleton]
      omega
    rw [pushChunk_cons, exec_push_of_unfinished (s := collected g s) nofun hunfinished, received_collected h,
      andThen_next, ih (h.append [b]) hrest, List.append_assoc, List.singleton_append]

theorem completes_collected (h : HasHeader g) (hlength : g.length + 1 = lengthOf g + 4)
    (hprev : s.prev1 = 0#8 ∧ s.prev2 = 0#8) : Completes (collected g s) b (g ++ [b]) := by
  have hbyte : g[3]? = some (lengthByte g) := readU8_of_lt h.length_ge
  have hbound : g.length < (lengthByte g).toNat + 4 := Nat.lt_of_succ_le hlength.le
  refine ⟨⟨nofun, nofun, fun _ => ⟨h.length_ge, h.marker, hbyte, hbound, hprev⟩⟩, rfl, .inl ⟨rfl, ?_⟩⟩
  rw [List.length_append, List.length_singleton]
  exact hlength

/-- The last byte of a frame meets the state that has collected all bytes before it, and completes the frame. -/
theorem pushChunk_collected_complete (h : HasHeader g) (hprev : s.prev1 = 0#8 ∧ s.prev2 = 0#8)
    (hlength : g.length + body.length + 1 = lengthOf g + 4) :
    pushChunk (body ++ [b]) (collected g s) = exec (.push b) (collected (g ++ body) s) ∧
    Completes (collected (g ++ body) s) b (g ++ (body ++ [b])) := by
  constructor
  · rw [pushChunk_append, pushChunk_collected h (by omega), andThen_next, pushChunk_singleton]
  · rw [← List.append_assoc]
    refine completes_collected (h.append body) ?_ hprev
    rw [List.length_append, h.lengthOf_append, hlength]

/-- Whatever the bytes are, as many as are missing return to Idle (R67, R68). -/
theorem exists_idle_of_collected (h : HasHeader g) (hprev : s.prev1 = 0#8 ∧ s.prev2 = 0#8) (hne : bs ≠ [])
    (hlength : g.length + bs.length = lengthOf g + 4) :
    ∃ t, pushChunk bs (collected g s) = .next t ∧ t.phase = .idle := by
  obtain ⟨body, b, rfl⟩ := (List.eq_nil_or_concat' bs).resolve_left hne
  obtain ⟨hrun, hcompletes⟩ := pushChunk_collected_complete (b := b) h hprev (by simpa [Nat.add_assoc] using hlength)
  obtain ⟨t, hexec, hidle, -⟩ := Proofs.completedFrameReturnsToIdle _ _ _ hcompletes
  exact ⟨t, hrun.trans hexec, hidle⟩

/-! From the marker on (R65). -/

theorem exec_push_lengthByte (hinv : SyncInv s) (hphase : s.phase = .lengthPending) {l : Byte} (hl : l ≠ 0#8) :
    exec (.push l) s = .next (collected (Config.marker ++ [l]) s) := by
  obtain ⟨-, hpending, -⟩ := hinv
  obtain ⟨hbuf, -⟩ := hpending hphase
  rw [exec_push_of_lengthPending hphase, pushLength_of_ne_zero (s := clearOutputs s) hbuf hl]
  rfl

/-- The length byte `L` and `L` bytes return to Idle. -/
theorem exists_idle_of_lengthPending (hinv : SyncInv s) (hphase : s.phase = .lengthPending) {l : Byte}
    (hlength : bs.length = l.toNat) : ∃ t, pushChunk (l :: bs) s = .next t ∧ t.phase = .idle := by
  have ⟨_, hpending, _⟩ := hinv
  obtain ⟨hbuf, hprev⟩ := hpending hphase
  by_cases hl : l = 0#8
  · subst hl
    obtain rfl := List.length_eq_zero_iff.mp hlength
    obtain ⟨t, hexec, hidle, -⟩ := Proofs.completedFrameReturnsToIdle s 0#8 _ ⟨hinv, rfl, .inr ⟨hphase, rfl⟩⟩
    exact ⟨t, (pushChunk_singleton _ _).trans hexec, hidle⟩
  · rw [pushChunk_cons, exec_push_lengthByte hinv hphase hl, andThen_next]
    refine exists_idle_of_collected (hasHeader_marker_cons l []) hprev ?_ ?_
    · rintro rfl
      exact hl (BitVec.eq_of_toNat_eq hlength.symm)
    · rw [hlength, lengthOf, lengthByte_marker_cons, Nat.add_comm]
      rfl

/-! From any state with the invariants (R19). -/

/-- The first byte of a chunk clears the outputs, so those before it do not matter. -/
theorem pushChunk_clearOutputs (hne : bs ≠ []) : pushChunk bs (clearOutputs s) = pushChunk bs s := by
  cases bs with
  | nil => exact absurd rfl hne
  | cons b bs => rfl

theorem clearOutputs_eq_collected (hphase : s.phase = .collecting) (hbyte : s.buf[3]? = some s.len) :
    clearOutputs s = collected s.buf s := by
  rw [collected, lengthByte_of_getElem hbyte, ← hphase]
  rfl

/-- While collecting, some 255 bytes or fewer return to Idle. -/
theorem exists_idle_of_collecting (hinv : SyncInv s) (hphase : s.phase = .collecting) (hlength : 255 ≤ bs.length) :
    ∃ k ≤ 255, ∃ t, pushChunk (bs.take k) s = .next t ∧ t.phase = .idle := by
  obtain ⟨-, -, hcollecting⟩ := hinv
  obtain ⟨hheader, hmarker, hbyte, hbound, hprev⟩ := hcollecting hphase
  have hlen : lengthOf s.buf = s.len.toNat := by rw [lengthOf, lengthByte_of_getElem hbyte]
  have hbyteBound := s.len.isLt
  have htake : (bs.take (s.len.toNat + 4 - s.buf.length)).length = s.len.toNat + 4 - s.buf.length := by
    rw [List.length_take]
    omega
  have hne : bs.take (s.len.toNat + 4 - s.buf.length) ≠ [] := List.ne_nil_of_length_pos (by omega)
  refine ⟨s.len.toNat + 4 - s.buf.length, by omega, ?_⟩
  rw [← pushChunk_clearOutputs hne, clearOutputs_eq_collected hphase hbyte]
  exact exists_idle_of_collected ⟨hmarker, hheader⟩ hprev hne (by omega)

end Sys2Proof.Machine

namespace Sys2Proof.Proofs

open Sys2Proof.Machine

/-- Settles O50: the length byte, then fewer bytes than it says, or all of them. -/
theorem lengthDrivenTermination : Obligations.LengthDrivenTermination := by
  intro s l bs hinv hphase hlength
  refine ⟨exists_idle_of_lengthPending hinv hphase hlength, fun k hk => ?_⟩
  have hl : l ≠ 0#8 := by
    rintro rfl
    exact absurd hk (Nat.not_lt_zero k)
  refine ⟨collected (Config.marker ++ [l] ++ bs.take k) s, ?_, rfl⟩
  rw [pushChunk_cons, exec_push_lengthByte hinv hphase hl, andThen_next]
  refine pushChunk_collected (hasHeader_marker_cons l []) ?_
  rw [lengthOf, lengthByte_marker_cons, List.length_take]
  change 4 + _ < _
  omega

/-- Settles O51: by phase; at worst the length byte 255 and its bytes are to come. -/
theorem recoveryWithin256Bytes : Obligations.RecoveryWithin256Bytes := by
  intro s bs hinv hlength
  suffices h : ∃ k ≤ 256, ∃ t, pushChunk (bs.take k) s = .next t ∧ t.phase = .idle by
    obtain ⟨k, hk, t, hrun, hidle⟩ := h
    exact ⟨k, hk, t, hrun, hidle, syncInv_of_pushChunk hinv hrun⟩
  cases hphase : s.phase with
  | idle => exact ⟨0, Nat.zero_le _, s, rfl, hphase⟩
  | lengthPending =>
    obtain ⟨l, bs, rfl⟩ := List.exists_cons_of_length_eq_add_one hlength
    have hl := l.isLt
    rw [List.length_cons] at hlength
    refine ⟨l.toNat + 1, by omega, ?_⟩
    rw [List.take_succ_cons]
    exact exists_idle_of_lengthPending hinv hphase (by rw [List.length_take]; omega)
  | collecting =>
    obtain ⟨k, hk, hrun⟩ := exists_idle_of_collecting hinv hphase (bs := bs) (by omega)
    exact ⟨k, by omega, hrun⟩

end Sys2Proof.Proofs
end

section
/-! PROOF. The marker in the stream (spec/41_synchronizer.md section 4, item 1): the history of Idle remembers as much
of a marker as the bytes so far end in, so a frame starts at the first one and nowhere else. -/

namespace Sys2Proof.Machine

variable {b : Byte} {bs : List Byte} {s : State}

/-! The search for the marker (R62 to R64). -/

theorem hasMarker_iff : hasMarker bs = true ↔ Config.marker <:+: bs := by
  induction bs with
  | nil => decide
  | cons b bs ih => rw [hasMarker, Bool.or_eq_true, List.isPrefixOf_iff_prefix, ih, List.infix_cons_iff]

/-- Bytes inside some that have no marker have none. -/
theorem hasMarker_of_infix {cs : List Byte} (h : bs <:+: cs) (hnone : hasMarker cs = false) : hasMarker bs = false := by
  rw [Bool.eq_false_iff, ne_eq, hasMarker_iff] at *
  exact fun hmarker => hnone (hmarker.trans h)

/-- The bytes of a begun marker that the history remembers. -/
def pendingMarker (s : State) : List Byte :=
  if s.prev1 = 0x5A#8 ∧ s.prev2 = 0xDC#8 then [0xDC#8, 0x5A#8] else if s.prev1 = 0xDC#8 then [0xDC#8] else []

/-- A byte in Idle completes the marker, or leaves Idle's history with an end of the bytes seen. -/
theorem pushIdle_pendingMarker (b : Byte) (s : State) :
    pendingMarker s ++ [b] = Config.marker ∨
    ((pushIdle b s).phase = s.phase ∧ pendingMarker (pushIdle b s) <:+ pendingMarker s ++ [b]) := by
  rcases pushIdle_cases b s with ⟨rfl, hprev1, hprev2, -⟩ | ⟨rfl, hprev1, h⟩ | h
  · left
    rw [pendingMarker, if_pos ⟨hprev1, hprev2⟩]
    rfl
  · right
    rw [h]
    refine ⟨rfl, ?_⟩
    simp [pendingMarker, hprev1]
  · right
    rw [h]
    refine ⟨rfl, ?_⟩
    by_cases hb : b = 0xDC#8
    · simp [pendingMarker, hb]
    · simp [pendingMarker, hb]

/-- While no marker comes together, the machine stays in Idle. -/
theorem exists_idle_of_no_marker (hphase : s.phase = .idle) (hnone : hasMarker (pendingMarker s ++ bs) = false) :
    ∃ t, pushChunk bs s = .next t ∧ t.phase = .idle := by
  induction bs generalizing s with
  | nil => exact ⟨s, rfl, hphase⟩
  | cons b bs ih =>
    rw [← List.singleton_append, ← List.append_assoc] at hnone
    rw [pushChunk_cons, exec_push_of_idle hphase, andThen_next]
    rcases pushIdle_pendingMarker b (clearOutputs s) with hmarker | ⟨hidle, hsuffix⟩
    · change pendingMarker s ++ [b] = Config.marker at hmarker
      rw [hmarker, Bool.eq_false_iff, ne_eq, hasMarker_iff] at hnone
      exact absurd (List.prefix_append _ _).isInfix hnone
    · refine ih (hidle.trans hphase) (hasMarker_of_infix ?_ hnone)
      obtain ⟨front, hfront⟩ := hsuffix
      exact ⟨front, [], by rw [List.append_nil, ← List.append_assoc, hfront]; rfl⟩

/-- The marker's bytes start a frame in Idle, whatever the history (R62, R63). -/
theorem pushChunk_marker (hphase : s.phase = .idle) :
    pushChunk Config.marker s = .next (startFrame (clearOutputs s)) := by
  have hfirst := Proofs.pushOtherByteInIdle s 0xDC#8 hphase (by simp) (by simp)
  rw [Config.marker, pushChunk_cons, hfirst, andThen_next, pushChunk_cons,
    Proofs.pushPartialMarker { s with prev2 := 0#8, prev1 := 0xDC#8, response := none, events := [] } hphase rfl,
    andThen_next, pushChunk_singleton]
  exact Proofs.pushCompletesMarker _ hphase rfl rfl

end Sys2Proof.Machine

namespace Sys2Proof.Proofs

open Sys2Proof.Machine

/-- Settles O52: without a marker the machine is in Idle, and from there the marker's bytes start a frame. -/
theorem markerIsFoundAtFirstOccurrence : Obligations.MarkerIsFoundAtFirstOccurrence := by
  intro s bs hphase _ hprev1 _
  have hfresh : pendingMarker s = [] := by simp [pendingMarker, hprev1]
  have hidle (hnone : hasMarker bs = false) : ∃ t, pushChunk bs s = .next t ∧ t.phase = .idle :=
    exists_idle_of_no_marker hphase (by rwa [hfresh])
  refine ⟨hidle, fun hnone => ?_⟩
  obtain ⟨u, hrun, hidle⟩ := hidle (hasMarker_of_infix (List.prefix_append _ _).isInfix hnone)
  have hmarker := pushChunk_marker hidle
  exact ⟨_, by rw [pushChunk_append, hrun, andThen_next]; exact hmarker, rfl, rfl⟩

end Sys2Proof.Proofs
end

section
/-! PROOF. The assembler's frames (spec/30_encoding.md R57): `FRAME p` and `BADFRAME p` are the span of `p` with a
trailer, and pushed in Idle they complete the frame of those bytes, which the trailer makes an accepted or a rejected one. -/

namespace Sys2Proof.Machine

variable {b : Byte} {s : State} {f p : Frame} {r : Word}

/-! Reads behind a known front, and of a trailer (R10). -/

theorem byteAt_append_right (front back : Frame) (i : Nat) :
    byteAt (front ++ back) (front.length + i) = byteAt back i := by
  rw [byteAt, byteAt, List.getD_append_right _ _ _ _ (Nat.le_add_right _ _), Nat.add_sub_cancel_left]

theorem byteAt_append_left {front : Frame} {i : Nat} (h : i < front.length) (back : Frame) :
    byteAt (front ++ back) i = byteAt front i := by
  rw [byteAt, byteAt, List.getD_append _ _ _ _ h]

theorem u32At_append_length (front back : Frame) : u32At (front ++ back) front.length = u32At back 0 := by
  have hfirst := byteAt_append_right front back 0
  rw [Nat.add_zero] at hfirst
  simp only [u32At, byteAt_append_right, hfirst, Nat.zero_add]

/-- A word's bytes are read back as the word. -/
theorem u32At_wordBytes (r : Word) : u32At (wordBytes r) 0 = r.toNat := by
  have hbytes : u32At (wordBytes r) 0 =
      (r.extractLsb' 24 8).toNat * 2 ^ 24 + (r.extractLsb' 16 8).toNat * 2 ^ 16 + (r.extractLsb' 8 8).toNat * 2 ^ 8 +
        (r.extractLsb' 0 8).toNat := rfl
  have hr := r.isLt
  rw [hbytes]
  simp only [BitVec.extractLsb'_toNat, Nat.shiftRight_eq_div_pow]
  omega

/-! The span and the trailer of an assembled frame (R57). -/

theorem frameSpan_eq (p : Frame) : frameSpan p = Config.marker ++ BitVec.ofNat 8 (p.length + 4) :: p := rfl

theorem length_frameSpan (p : Frame) : (frameSpan p).length = p.length + 4 := rfl

variable (r) in
theorem lengthOf_frameSpan_append (hmax : p.length ≤ 251) : lengthOf (frameSpan p ++ wordBytes r) = p.length + 4 := by
  have hbyte : lengthOf (frameSpan p ++ wordBytes r) = (BitVec.ofNat 8 (p.length + 4)).toNat := rfl
  rw [hbyte, BitVec.toNat_ofNat]
  omega

variable (r) in
/-- The CRC span of the frame is the assembler's (R70). -/
theorem take_frameSpan_append (hmax : p.length ≤ 251) :
    (frameSpan p ++ wordBytes r).take (lengthOf (frameSpan p ++ wordBytes r)) = frameSpan p := by
  rw [lengthOf_frameSpan_append r hmax]
  exact List.take_left' (length_frameSpan p)

variable (r) in
/-- The trailer of the frame is the assembler's (R70). -/
theorem u32At_frameSpan_append (hmax : p.length ≤ 251) :
    u32At (frameSpan p ++ wordBytes r) (lengthOf (frameSpan p ++ wordBytes r)) = r.toNat := by
  rw [lengthOf_frameSpan_append r hmax, ← length_frameSpan p, u32At_append_length, u32At_wordBytes]

variable (r) in
/-- Pushed in Idle, a span and a trailer complete the frame of those bytes, and no byte before the last touches what the
block publishes. -/
theorem pushChunk_frameSpan_append (hphase : s.phase = .idle) (hmax : p.length ≤ 251) :
    ∃ u b, pushChunk (frameSpan p ++ wordBytes r) s = exec (.push b) u ∧
      Completes u b (frameSpan p ++ wordBytes r) ∧ u.snap = s.snap ∧ u.bms = s.bms ∧ u.diag = s.diag := by
  have hl : (BitVec.ofNat 8 (p.length + 4)).toNat = p.length + 4 := by
    rw [BitVec.toNat_ofNat]
    omega
  have hne : BitVec.ofNat 8 (p.length + 4) ≠ 0#8 := fun h => by
    rw [h] at hl
    exact absurd hl (Nat.succ_ne_zero _).symm
  have hbytes : frameSpan p ++ wordBytes r = Config.marker ++ BitVec.ofNat 8 (p.length + 4) ::
      (p ++ [r.extractLsb' 24 8, r.extractLsb' 16 8, r.extractLsb' 8 8] ++ [r.extractLsb' 0 8]) := by
    simp [frameSpan_eq, wordBytes]
  obtain ⟨hrun, hcompletes⟩ := pushChunk_collected_complete (s := startFrame (clearOutputs s))
    (body := p ++ [r.extractLsb' 24 8, r.extractLsb' 16 8, r.extractLsb' 8 8]) (b := r.extractLsb' 0 8)
    (hasHeader_marker_cons (BitVec.ofNat 8 (p.length + 4)) []) ⟨rfl, rfl⟩ (by
      rw [lengthOf, lengthByte_marker_cons, hl]
      simp only [Config.marker, List.length_append, List.length_cons, List.length_nil]
      omega)
  rw [hbytes]
  refine ⟨_, _, ?_, hcompletes, rfl, rfl, rfl⟩
  rw [pushChunk_append, pushChunk_marker hphase, andThen_next, pushChunk_cons,
    exec_push_lengthByte syncInv_startFrame rfl hne, andThen_next]
  exact hrun

/-! Acceptance, with the state that it leaves written out (R72). -/

theorem Accepted.exec_push_of_extract (h : Accepted s b f) {sample : Snapshot} {mver : Nat}
    (hextract : extract f = some (sample, mver)) :
    exec (.push b) s = .next (toIdle (publish (compose sample mver (frameSlots mver f s.bms))
      (setBms (frameSlots mver f s.bms) (collected f s)))) := by
  rw [h.exec_push, accept_eq, collected_buf, hextract, collected_bms]
  rfl

/-- The extractor answers on an accepted frame, and its major version is R89's. -/
theorem Accepted.exists_extract (h : Accepted s b f) : ∃ sample, extract f = some (sample, mverAt f) := by
  obtain ⟨hcompletes, hfloor, -⟩ := h
  have hlength := hcompletes.length_eq
  obtain ⟨sample, mver, hextract⟩ := extract_of_le (f := f) (by omega)
  exact ⟨sample, by rw [hextract, mver_of_extract hextract (by omega)]⟩

theorem s16At_frameSpan_append (h : 2 ≤ p.length) (back : Frame) : s16At (frameSpan p ++ back) 4 = s16At p 0 := by
  have hbyte (i : Nat) (hi : i < p.length) : byteAt (frameSpan p ++ back) (4 + i) = byteAt p i := by
    rw [byteAt_append_left (by rw [length_frameSpan]; omega)]
    exact byteAt_append_right (Config.marker ++ [BitVec.ofNat 8 (p.length + 4)]) p i
  rw [s16At, s16At, u16At, u16At, ← hbyte 0 (by omega), ← hbyte 1 (by omega)]

end Sys2Proof.Machine

namespace Sys2Proof.Proofs

open Sys2Proof.Machine

/-- Settles O53: the trailer is the span's checksum. -/
theorem assembledFrameIsAccepted : Obligations.AssembledFrameIsAccepted := by
  intro s p hphase _ hmin hmax
  obtain ⟨u, b, hrun, hcompletes, -, -, hdiag⟩ :=
    pushChunk_frameSpan_append (crc32 (frameSpan p)) hphase hmax
  have haccepted : Accepted u b (frameBytes p) := by
    refine ⟨hcompletes, ?_, ?_⟩
    · rw [frameBytes, lengthOf_frameSpan_append _ hmax]
      omega
    · rw [frameBytes, take_frameSpan_append _ hmax, u32At_frameSpan_append _ hmax]
  obtain ⟨sample, hextract⟩ := haccepted.exists_extract
  refine ⟨_, _, hrun.trans (haccepted.exec_push_of_extract hextract), rfl, rfl, rfl, hdiag, rfl, lookup_compose ?_ _ _⟩
  rw [lookup_of_extract hextract (r := ⟨.voltage, 4, .int16, 100, 0⟩) (by decide), if_pos (Nat.zero_le _), rawAt,
    frameBytes, s16At_frameSpan_append (by omega)]

/-- Settles O54: the trailer differs from the span's checksum in its last byte. -/
theorem assembledBadFrameIsRejected : Obligations.AssembledBadFrameIsRejected := by
  intro s p hphase _ hmin hmax
  have hne (c : Word) : c ≠ c ^^^ 0x000000FF#32 := fun h =>
    absurd (BitVec.xor_right_inj c |>.mp (h.symm.trans (BitVec.xor_zero).symm)) (by decide)
  obtain ⟨u, b, hrun, hcompletes, hsnap, hbms, -⟩ :=
    pushChunk_frameSpan_append (crc32 (frameSpan p) ^^^ 0x000000FF#32) hphase hmax
  have hspan : (badFrameBytes p).take (lengthOf (badFrameBytes p)) = frameSpan p := take_frameSpan_append _ hmax
  have htrailer : u32At (badFrameBytes p) (lengthOf (badFrameBytes p)) =
      (crc32 (frameSpan p) ^^^ 0x000000FF#32).toNat := u32At_frameSpan_append _ hmax
  have hrejected : Rejected u b (badFrameBytes p) := by
    refine ⟨hcompletes, ?_, ?_⟩
    · rw [badFrameBytes, lengthOf_frameSpan_append _ hmax]
      omega
    · rw [hspan, htrailer]
      exact fun h => hne _ (BitVec.eq_of_toNat_eq h)
  have hexec := hrejected.exec_push
  rw [hspan, htrailer, BitVec.ofNat_toNat, BitVec.setWidth_eq] at hexec
  exact ⟨_, _, hrun.trans hexec, rfl, rfl, rfl, rfl, rfl, hsnap, hbms⟩

end Sys2Proof.Proofs
end

section
/-! PROOF. Published snapshots (spec/45_aggregator.md section 3, spec/44_bms_accumulator.md section 3): how many entries
an accepted frame publishes and what they depend on; the slots that three sub-packets of a unit fill. -/

namespace Sys2Proof.Machine

variable {b : Byte} {s : State} {f : Frame}

/-! How many entries a snapshot has (R104). -/

/-- Every row's gate holds in an accepted frame. -/
theorem length_sample_of_extract {sample : Snapshot} {mver : Nat} (h : extract f = some (sample, mver))
    (hlength : 36 ≤ f.length) : sample.length = 14 := by
  have hgates : ∀ r ∈ fieldTable, r.minLength ≤ 36 := by decide
  have hall : fieldTable.filter (fieldPresent f) = fieldTable :=
    List.filter_eq_self.mpr fun r hr => (fieldPresent_iff f r).mpr ((hgates r hr).trans hlength)
  obtain ⟨rfl, -⟩ := extract_eq_some h
  rw [hall, List.length_map]
  rfl

theorem length_perSlot (u : UnitId) (m : BmsUnit) : (perSlot u m).length = 49 := by simp [perSlot]

theorem length_summaries_le (u : UnitId) (m : BmsUnit) : (summaries u m).length ≤ 5 := by
  rw [summaries]
  split
  · exact Nat.zero_le 5
  · exact le_rfl

theorem length_unitPart (u : UnitId) (m : BmsUnit) :
    49 ≤ (unitPart u m).length ∧ (unitPart u m).length ≤ 54 := by
  have := length_summaries_le u m
  rw [unitPart, List.length_append, length_perSlot]
  omega

theorem compose_of_lt {mver : Nat} (h : mver < 5) (sample : Snapshot) (m : Bms) : compose sample mver m = sample := by
  rw [compose, if_neg (by rw [bmsEnabled_iff]; omega)]

theorem length_compose_of_le {mver : Nat} (h : 5 ≤ mver) (sample : Snapshot) (m : Bms) :
    sample.length + 98 ≤ (compose sample mver m).length ∧ (compose sample mver m).length ≤ sample.length + 108 := by
  have hone := length_unitPart .one m.unit1
  have htwo := length_unitPart .two m.unit2
  rw [compose, if_pos ((bmsEnabled_iff mver).mpr h), List.length_append, List.length_append]
  omega

theorem bmsKeyUnit_of_isBmsKey {k : Key} (h : isBmsKey k = true) : ∃ u, bmsKeyUnit k = some u := by
  cases k <;> simp_all [isBmsKey, bmsKeyUnit]

/-! Three sub-packets fill a unit (R94 to R96). -/

/-- The word number that cell `i` takes from frames of shapes 1, 2 and 3. -/
def cellWordAt (f1 f2 f3 : Frame) (i : Nat) : Nat :=
  if i < 15 then u16At f1 (53 + 2 * i)
  else if i < 30 then u16At f2 (53 + 2 * (i - 15))
  else u16At f3 (59 + 2 * (i - 30))

/-- With frames of at least 83 bytes every slot but the current takes its word, whatever it held. -/
theorem exists_threeShapes (u : BitVec 6) (s : State) {f1 f2 f3 : Frame} (h1 : 83 ≤ f1.length) (h2 : 83 ≤ f2.length)
    (h3 : 83 ≤ f3.length) :
    ∃ a b c, exec (.bmsShape1Cells0To14 u) { s with buf := f1 } = .next a ∧
      exec (.bmsShape2Cells15To29 u) { a with buf := f2 } = .next b ∧
      exec (.bmsShape3Cells30To41Temps u) { b with buf := f3 } = .next c ∧
      (∀ i : Fin 42, ((bmsUnit c.bms (unitOfField u)).cell[i]).toNat = cellWordAt f1 f2 f3 i) ∧
      ∀ k : Fin 6, ((bmsUnit c.bms (unitOfField u)).temp[k]).toNat = u16At f3 (47 + 2 * k.val) := by
  have hunit := unitOfField_eq u
  obtain ⟨a, ha, -, -, -, -, hcellsA⟩ := Proofs.shape1WritesCells0To14 u { s with buf := f1 } _ hunit
  obtain ⟨b, hb, -, -, -, -, hcellsB⟩ := Proofs.shape2WritesCells15To29 u { a with buf := f2 } _ hunit
  obtain ⟨c, hc, -, -, -, hcellsC, htempsC⟩ := Proofs.shape3WritesCells30To41AndTemps u { b with buf := f3 } _ hunit
  dsimp only at hcellsA hcellsB hcellsC htempsC
  refine ⟨a, b, c, ha, hb, hc, fun i => ?_, fun k => ?_⟩
  · have hi := i.isLt
    rw [hcellsC, hcellsB, hcellsA, cellWordAt]
    by_cases hthird : 30 ≤ i.val
    · rw [if_pos ⟨hthird, by omega⟩, if_neg (by omega), if_neg (by omega)]
    rw [if_neg fun h => hthird h.1]
    by_cases hsecond : 15 ≤ i.val
    · rw [if_pos ⟨hsecond, by omega, by omega⟩, if_neg (by omega), if_pos (by omega)]
    · rw [if_neg fun h => hsecond h.1, if_pos ⟨by omega, by omega⟩, if_pos (by omega)]
  · have hk := k.isLt
    rw [htempsC, if_pos ⟨by omega, by omega⟩]

theorem vector_eq_of_toNat {n : Nat} {x y : Vector Half n} (h : ∀ i : Fin n, x[i].toNat = y[i].toNat) : x = y :=
  Vector.ext fun i hi => BitVec.eq_of_toNat_eq (h ⟨i, hi⟩)

end Sys2Proof.Machine

namespace Sys2Proof.Proofs

open Sys2Proof.Machine

/-- Settles O31: the four rows of the map with a gate, in the snapshot of the frame. -/
theorem acceptedFrameGatedFields : Obligations.AcceptedFrameGatedFields := by
  intro s b f h
  obtain ⟨t, m, hexec, hsnap, hlookup⟩ := h.exists_snap_lookup
  exact ⟨t, m, hexec, hsnap,
    hlookup ⟨.version, 28, .int16, 1000, 30⟩ (by decide),
    hlookup ⟨.rideMode, 30, .int16, 1, 32⟩ (by decide),
    hlookup ⟨.pitchAngle, 32, .int16, 100, 34⟩ (by decide),
    hlookup ⟨.hpwm, 34, .int16, 100, 36⟩ (by decide)⟩

/-- Settles O38: what each slot holds in the end is a word of the frames alone. -/
theorem threeShapesFillAUnit : Obligations.ThreeShapesFillAUnit := by
  intro u s s' f1 f2 f3 h1 h2 h3
  obtain ⟨a, b, c, ha, hb, hc, hcells, htemps⟩ := exists_threeShapes u s h1 h2 h3
  obtain ⟨a', b', c', ha', hb', hc', hcells', htemps'⟩ := exists_threeShapes u s' h1 h2 h3
  exact ⟨a, a', b, b', c, c', ha, ha', hb, hb', hc, hc',
    vector_eq_of_toNat fun i => (hcells i).trans (hcells' i).symm,
    vector_eq_of_toNat fun k => (htemps k).trans (htemps' k).symm⟩

/-- Settles O43: below the version gate the slots stay and the snapshot is the Sample. -/
theorem noBmsKeyBelowVersion5 : Obligations.NoBmsKeyBelowVersion5 := by
  intro s b f h hmver
  obtain ⟨sample, hextract⟩ := h.exists_extract
  refine ⟨_, _, h.exec_push_of_extract hextract, rfl, ?_, fun k hk => ?_⟩
  · exact if_neg fun hgate => absurd hmver hgate.1.not_gt
  · obtain ⟨u, hu⟩ := bmsKeyUnit_of_isBmsKey hk
    rw [compose_of_lt hmver, lookup_bmsKey_of_extract hextract hu]

/-- Settles O44: 14 rows, and from version 5 two units of 49 entries with at most 5 summaries each. -/
theorem snapshotKeyCounts : Obligations.SnapshotKeyCounts := by
  intro s b f h
  have ⟨hcompletes, hfloor, _⟩ := h
  have hlength := hcompletes.length_eq
  obtain ⟨sample, hextract⟩ := h.exists_extract
  have hsample := length_sample_of_extract hextract (by omega)
  refine ⟨_, _, h.exec_push_of_extract hextract, rfl, snapshotWf_compose hextract _, fun hmver => ?_, fun hmver => ?_⟩
  · rw [compose_of_lt hmver, hsample]
  · have hcount := length_compose_of_le hmver sample (frameSlots (mverAt f) f s.bms)
    omega

/-- Settles O45: the outcome is written out without the old snapshot. -/
theorem publicationForgetsOldSnapshot : Obligations.PublicationForgetsOldSnapshot := by
  intro s b f old h
  obtain ⟨sample, hextract⟩ := h.exists_extract
  have hold : Accepted { s with snap := old } b f := h
  rw [h.exec_push_of_extract hextract, hold.exec_push_of_extract hextract]
  rfl

end Sys2Proof.Proofs
end

section
/-! PROOF. The CRC engine (spec/40_crc.md, spec/42_validator.md section 3): the rounds are linear over exclusive or, so
the table gives the bitwise CRC; a round loses nothing, so the CRC separates byte sequences that differ in one byte. -/

namespace Sys2Proof.Machine

variable {b c : Byte} {x y : Word}

/-! One round (R58). -/

theorem crcRound_xor (x y : Word) : crcRound (x ^^^ y) = crcRound x ^^^ crcRound y := by
  simp only [crcRound, BitVec.getLsbD_xor, BitVec.ushiftRight_xor_distrib]
  cases x.getLsbD 0 <;> cases y.getLsbD 0
  case false.false => rfl
  case false.true => exact BitVec.xor_assoc _ _ _
  case true.false =>
    change x >>> 1 ^^^ y >>> 1 ^^^ Config.crcPolynomial = x >>> 1 ^^^ Config.crcPolynomial ^^^ y >>> 1
    ac_rfl
  case true.true =>
    calc x >>> 1 ^^^ y >>> 1
      _ = x >>> 1 ^^^ y >>> 1 ^^^ (Config.crcPolynomial ^^^ Config.crcPolynomial) := by
        rw [BitVec.xor_self, BitVec.xor_zero]
      _ = x >>> 1 ^^^ Config.crcPolynomial ^^^ (y >>> 1 ^^^ Config.crcPolynomial) := by ac_rfl

/-- Bit 31 of a round's result is bit 0 of its argument: the shift leaves it clear and the polynomial has it. -/
theorem msb_crcRound (x : Word) : (crcRound x).getLsbD 31 = x.getLsbD 0 := by
  rw [crcRound]
  cases hbit : x.getLsbD 0 <;> simp [Config.crcPolynomial]

/-- A round loses no bit. -/
theorem crcRound_injective : Function.Injective crcRound := by
  intro x y h
  have hbit : x.getLsbD 0 = y.getLsbD 0 := by rw [← msb_crcRound, ← msb_crcRound, h]
  have hshift : x >>> 1 = y >>> 1 := by
    rw [crcRound, crcRound, hbit] at h
    split at h
    · exact (BitVec.xor_left_inj _).mp h
    · exact h
  refine BitVec.eq_of_getLsbD_eq fun i hi => ?_
  cases i with
  | zero => exact hbit
  | succ i => simpa [Nat.add_comm] using congrArg (·.getLsbD i) hshift

/-! Several rounds. -/

theorem crcRounds_xor (k : Nat) (x y : Word) : crcRounds k (x ^^^ y) = crcRounds k x ^^^ crcRounds k y := by
  induction k generalizing x y with
  | zero => rfl
  | succ k ih => rw [crcRounds, crcRounds, crcRounds, crcRound_xor, ih]

theorem crcRounds_injective (k : Nat) : Function.Injective (crcRounds k) := by
  induction k with
  | zero => exact fun _ _ h => h
  | succ k ih => exact ih.comp crcRound_injective

/-- Rounds over clear low bits only shift them out. -/
theorem crcRounds_of_low_clear {k : Nat} {x : Word} (h : ∀ i < k, x.getLsbD i = false) : crcRounds k x = x >>> k := by
  induction k generalizing x with
  | zero => rw [crcRounds, BitVec.ushiftRight_zero]
  | succ k ih =>
    have hround : crcRound x = x >>> 1 := by
      rw [crcRound, h 0 (Nat.succ_pos k), if_neg Bool.false_ne_true]
    have hclear : ∀ i < k, (x >>> 1).getLsbD i = false := fun i hi => by
      rw [BitVec.getLsbD_ushiftRight]
      exact h (1 + i) (by omega)
    rw [crcRounds, hround, ih hclear, ← BitVec.shiftRight_add, Nat.add_comm]

/-! One byte (R59, R60). -/

theorem setWidth_ushiftRight_eight (b : Byte) : b.setWidth 32 >>> 8 = 0#32 := by
  have hb := b.isLt
  apply BitVec.eq_of_toNat_eq
  rw [BitVec.toNat_ushiftRight, BitVec.toNat_setWidth, Nat.shiftRight_eq_div_pow, BitVec.toNat_ofNat]
  omega

/-- The table's step is eight rounds over the byte put to the register: the register's upper bytes are shifted, its low
byte goes through the table. -/
theorem crcStep_eq_crcRounds (x : Word) (b : Byte) : crcStep x b = crcRounds 8 (x ^^^ b.setWidth 32) := by
  have hbyte : (x ^^^ b.setWidth 32).setWidth 8 = x.setWidth 8 ^^^ b := by simp
  generalize hz : x ^^^ b.setWidth 32 = z at hbyte ⊢
  have hupper : z >>> 8 = x >>> 8 := by
    rw [← hz, BitVec.ushiftRight_xor_distrib, setWidth_ushiftRight_eight, BitVec.xor_zero]
  have hclear : ∀ i < 8, (z ^^^ (z.setWidth 8).setWidth 32).getLsbD i = false := fun i hi => by
    simp [hi, show i < 32 by omega]
  calc crcStep x b
    _ = z >>> 8 ^^^ crcRounds 8 ((z.setWidth 8).setWidth 32) := by rw [crcStep, crcTab, hupper, hbyte]
    _ = crcRounds 8 (z ^^^ (z.setWidth 8).setWidth 32) ^^^ crcRounds 8 ((z.setWidth 8).setWidth 32) := by
      rw [crcRounds_of_low_clear hclear, BitVec.ushiftRight_xor_distrib, setWidth_ushiftRight_eight, BitVec.xor_zero]
    _ = crcRounds 8 z := by rw [← crcRounds_xor, BitVec.xor_assoc, BitVec.xor_self, BitVec.xor_zero]

theorem crcStep_right_injective (x : Word) : Function.Injective (crcStep x) := by
  intro b c h
  rw [crcStep_eq_crcRounds, crcStep_eq_crcRounds] at h
  have hbytes := (BitVec.xor_right_inj x).mp (crcRounds_injective 8 h)
  simpa using congrArg (BitVec.setWidth 8) hbytes

theorem crcStep_left_injective (b : Byte) : Function.Injective (crcStep · b) := by
  intro x y h
  simp only [crcStep_eq_crcRounds] at h
  exact (BitVec.xor_left_inj _).mp (crcRounds_injective 8 h)

/-! Byte sequences that differ in one byte (R73). -/

theorem foldl_crcStep_injective (bs : List Byte) : Function.Injective fun x => bs.foldl crcStep x := by
  induction bs with
  | nil => exact fun _ _ h => h
  | cons b bs ih => exact ih.comp (crcStep_left_injective b)

/-- The register after the differing byte differs, and the bytes behind it keep that. -/
theorem crc32_append_cons_injective (front back : List Byte) :
    Function.Injective fun b => crc32 (front ++ b :: back) := by
  intro b c h
  simp only [crc32, List.foldl_append, List.foldl_cons] at h
  exact crcStep_right_injective _ (foldl_crcStep_injective back ((BitVec.xor_left_inj _).mp h))

/-- Another byte at a place of the sequence gives another CRC. -/
theorem crc32_set_ne {bs : List Byte} {k : Nat} (hk : k < bs.length) {b : Byte} (hne : bs[k]? ≠ some b) :
    crc32 (bs.set k b) ≠ crc32 bs := by
  rw [List.getElem?_eq_getElem hk] at hne
  intro h
  have hself : crc32 (bs.set k b) = crc32 (bs.set k bs[k]) := by rw [h, List.set_getElem_self]
  rw [List.set_eq_take_append_cons_drop, List.set_eq_take_append_cons_drop, if_pos hk, if_pos hk] at hself
  exact hne (congrArg some (crc32_append_cons_injective _ _ hself).symm)

/-! A frame with one byte changed (R10, R41). -/

variable {f : Frame} {k o : Nat} {b : Byte}

theorem byteAt_set_self (hk : k < f.length) (b : Byte) : byteAt (f.set k b) k = b.toNat := by
  rw [byteAt, List.getD_eq_getElem?_getD, List.getElem?_set_self hk, Option.getD_some]

theorem byteAt_set_of_ne (h : k ≠ o) (b : Byte) : byteAt (f.set k b) o = byteAt f o := by
  rw [byteAt, byteAt, List.getD_eq_getElem?_getD, List.getD_eq_getElem?_getD, List.getElem?_set_ne h]

theorem lengthOf_set (h : 4 ≤ k) (b : Byte) : lengthOf (f.set k b) = lengthOf f :=
  byteAt_set_of_ne (o := 3) (by omega) b

/-- Equal words have equal bytes. -/
theorem byteAt_eq_of_u32At_eq {g : Frame} (h : u32At f o = u32At g o) {i : Nat} (hi : i < 4) :
    byteAt f (o + i) = byteAt g (o + i) := by
  have hf (j : Nat) := byteAt_lt f (o + j)
  have hg (j : Nat) := byteAt_lt g (o + j)
  have hf0 := hf 0; have hf1 := hf 1; have hf2 := hf 2; have hf3 := hf 3
  have hg0 := hg 0; have hg1 := hg 1; have hg2 := hg 2; have hg3 := hg 3
  simp only [u32At, Nat.add_zero] at *
  interval_cases i
  · rw [Nat.add_zero]
    omega
  all_goals omega

/-- A changed byte of the word changes the word. -/
theorem u32At_set_ne (hk : k < f.length) (hne : f[k]? ≠ some b) (hle : o ≤ k) (hlt : k < o + 4) :
    u32At (f.set k b) o ≠ u32At f o := by
  intro h
  have hbyte := byteAt_eq_of_u32At_eq h (i := k - o) (by omega)
  rw [Nat.add_sub_cancel' hle, byteAt_set_self hk, byteAt, List.getD_eq_getElem?_getD,
    List.getElem?_eq_getElem hk, Option.getD_some] at hbyte
  rw [List.getElem?_eq_getElem hk] at hne
  exact hne (congrArg some (BitVec.eq_of_toNat_eq hbyte.symm))

theorem u32At_set_of_lt (h : k < o) (b : Byte) : u32At (f.set k b) o = u32At f o := by
  simp only [u32At, byteAt_set_of_ne (show k ≠ o by omega), byteAt_set_of_ne (show k ≠ o + 1 by omega),
    byteAt_set_of_ne (show k ≠ o + 2 by omega), byteAt_set_of_ne (show k ≠ o + 3 by omega)]

/-- With a matching trailer, one other byte in span or trailer makes the two differ: it changes one of them. -/
theorem crc32_ne_trailer_of_set {l : Nat} (hlength : f.length = l + 4) (hk : k < f.length) (hne : f[k]? ≠ some b)
    (hcrc : (crc32 (f.take l)).toNat = u32At f l) : (crc32 ((f.set k b).take l)).toNat ≠ u32At (f.set k b) l := by
  by_cases hspan : k < l
  · have htake : k < (f.take l).length := by rw [List.length_take]; omega
    rw [List.take_set, u32At_set_of_lt hspan, ← hcrc]
    refine fun h => crc32_set_ne htake ?_ (BitVec.eq_of_toNat_eq h)
    rwa [List.getElem?_take_of_lt hspan]
  · rw [List.take_set_of_le (Nat.le_of_not_lt hspan), hcrc]
    exact (u32At_set_ne hk hne (Nat.le_of_not_lt hspan) (hlength ▸ hk)).symm

end Sys2Proof.Machine

namespace Sys2Proof.Proofs

open Sys2Proof.Machine

/-- Settles O26: the length byte is not changed, and checksum and trailer no longer agree. -/
theorem singleByteChangeIsRejected : Obligations.SingleByteChangeIsRejected := by
  intro s s' b b' f k x haccepted hheader hk hne hcompletes'
  obtain ⟨hcompletes, hfloor, hcrc⟩ := haccepted
  have hlengthOf := lengthOf_set (f := f) hheader x
  have hdiffer := crc32_ne_trailer_of_set hcompletes.length_eq hk hne hcrc
  have hrejected : Rejected s' b' (f.set k x) := ⟨hcompletes', by rwa [hlengthOf], by rwa [hlengthOf]⟩
  refine ⟨_, _, _, hrejected.exec_push, ?_, rfl, rfl, rfl, rfl⟩
  rw [hlengthOf]
  exact mt (eq_ofNat_u32At_iff _ _ _).mp hdiffer

/-- Settles O28: byte by byte, each step of the table as eight rounds. -/
theorem tableDrivenCrcIsBitwise : Obligations.TableDrivenCrcIsBitwise := by
  intro s
  have hstep : crcStep = fun c b => crcRounds 8 (c ^^^ b.setWidth 32) :=
    funext fun c => funext fun b => crcStep_eq_crcRounds c b
  rw [crc32, hstep, Config.crcSeed, Config.crcFinal]

/-- Settles O29: closed values. -/
theorem crcCheckValues : Obligations.CrcCheckValues := by
  unfold Obligations.CrcCheckValues
  decide

end Sys2Proof.Proofs
end
